-- ==== Sys2Proof/Word.lean ====
section
/-! DEFINITION. The 32-bit word of the register interface, and a bank as its words (rules R9, R14). -/

namespace Sys2Proof

/-- A 32-bit word: one register access, one command word (rules R9, R35). -/
abbrev Word := BitVec 32

/-- A bank as its 32-bit words, word 0 (the least significant, rule R36) first. -/
abbrev Bank := List Word

end Sys2Proof
end

