-- ==== Sys2Proof/Config.lean ====
section
/-! DEFINITION. The parameters of the block (rule R6) and the free values the spec leaves open. -/

namespace Sys2Proof

/-- The parameters a platform fixes (rule R6). State holds one, no step changes it, and every
statement is for all of them. -/
structure Config where
  /-- W, the words per bank, as the 16-bit field of CAP that the host reads (rule R25). -/
  capW : BitVec 16
  /-- BASE, the byte address of the block's first register on the host's bus (rule R6). -/
  base : Nat
deriving DecidableEq, Repr

/-- W, the number of 32-bit words in each bank (rule R6). -/
def Config.words (c : Config) : Nat := c.capW.toNat

/-- K = 32 * W, the width of each bank in bits (rule R6). -/
def Config.bits (c : Config) : Nat := 32 * c.words

/-- The parameters of State.reset: W = 1, as in the spec's test vectors, and BASE = 0.
DESIGN CHOICE (the spec leaves both open): log entries 3 and 4. -/
def Config.resetDefault : Config := { capW := 1, base := 0 }

/-- Free value: word `i` of bank number `j` after the reset input number `k`. Rules R30 and R102
leave the banks unspecified ("any value"), so nothing is known of it (log entry 2). -/
opaque Config.unspecifiedWord : Nat → Nat → Nat → Word

end Sys2Proof
end

