-- ==== Sys2Proof/Syntax.lean ====
section
/-! DEFINITION. What the agents can do: the five commands (every row of the opcode table), the
registers, the host's two operations, and one turn of an agent. -/

namespace Sys2Proof

/-- The five commands (rule R46). Every operand is implicit (rule R47). -/
inductive Instr where
  /-- RES <- A * B * R^-1 mod N (rule R64). -/
  | montmul
  /-- RES <- A * R mod N (rule R65). -/
  | tomont
  /-- RES <- A ^ B mod N (rule R70). -/
  | modexp
  /-- RES <- inverse of A modulo N (rule R82). -/
  | modinv
  /-- RES, X, Y, SIGNS <- gcd and Bézout coefficients of A and B (rule R81). -/
  | xgcd
deriving DecidableEq, Repr

/-- The six banks (rule R14). -/
inductive BankId where
  | a | b | n | res | x | y
deriving DecidableEq, Repr

/-- What an offset of the register space names (rules R33 and R54). -/
inductive Reg where
  | cmd | status | ctrl | cap | signs
  /-- Word `i` of bank `q` (rule R34). -/
  | bankWord (q : BankId) (i : Nat)
  /-- A reserved offset, or one above the block (rule R37). -/
  | unused
deriving DecidableEq, Repr

/-- One access of the host (rule R53): a byte address on its bus, and the access's size in bytes.
Only size 4 at a multiple of 4 from BASE is defined (rule R35); the others are written down here so
that the model can refuse them by name. -/
inductive HostOp where
  /-- RDW (rule R55): read. -/
  | read (addr size : Nat)
  /-- WRW (rule R56): write the value `v`. -/
  | write (addr size : Nat) (v : Word)
deriving DecidableEq, Repr

/-- One turn: who moves (rule R12), or the platform's reset input (rule R101). -/
inductive Turn where
  | host (op : HostOp)
  | engine
  | reset
deriving DecidableEq, Repr

end Sys2Proof
end

