-- ==== Sys2Proof/WellFormed.lean ====
section
/-! DEFINITION. Which parameters, host accesses and command words the spec admits. A command has no
operand (rule R47), so every term of Instr is well formed and there is no check on it. -/

namespace Sys2Proof

/-- The constraints of rule R6: W is at least 1 (at most 65535 by its 16 bits), BASE a multiple of 4. -/
def Config.wf (c : Config) : Bool := decide (c.capW ≠ 0) && decide (c.base % 4 = 0)

/-- A legal command word (rule R46): RSV, bits 31:4, is 0 and OP, bits 3:0, is one of 1 to 5. -/
def legalWord (w : Word) : Bool :=
  decide (w.toNat / 16 = 0) && decide (1 ≤ w.toNat % 16) && decide (w.toNat % 16 ≤ 5)

/-- The access is one the spec defines (rules R32 and R35): 32 bits wide, at an offset from BASE that
is a multiple of 4. -/
def accessWf (c : Config) (addr size : Nat) : Bool :=
  decide (c.base ≤ addr) && decide (size = 4) && decide ((addr - c.base) % 4 = 0)

/-- A defined host operation (rule R35). -/
def HostOp.wf (c : Config) : HostOp → Bool
  | .read addr size => accessWf c addr size
  | .write addr size _ => accessWf c addr size

/-- A turn that is no undefined host access. -/
def Turn.wf (c : Config) : Turn → Bool
  | .host op => op.wf c
  | .engine => true
  | .reset => true

end Sys2Proof
end

