-- ==== Sys2Proof/Decode.lean ====
section
/-! DEFINITION. From a command word to its command (rules R45 to R48), and back. -/

namespace Sys2Proof

/-- Why a command word is illegal (rule R48). All three complete with ILLEGAL_COMMAND. -/
inductive DecodeError where
  /-- A bit of RSV, bits 31:4, is set. -/
  | reservedBitsSet
  /-- OP = 0. -/
  | opcodeZero
  /-- OP is one of 6 to 15. -/
  | opcodeReserved
deriving DecidableEq, Repr

/-- OP, bits 3:0 of the command word (rule R45). -/
def opField (w : Word) : Nat := w.toNat % 16

/-- RSV, bits 31:4 of the command word (rule R45). -/
def rsvField (w : Word) : Nat := w.toNat / 16

/-- The command of a command word, or why there is none (rules R46 and R60). -/
def decode (w : Word) : Except DecodeError Instr :=
  if rsvField w ≠ 0 then .error .reservedBitsSet
  else match opField w with
    | 0 => .error .opcodeZero
    | 1 => .ok .montmul
    | 2 => .ok .tomont
    | 3 => .ok .modexp
    | 4 => .ok .modinv
    | 5 => .ok .xgcd
    | _ => .error .opcodeReserved

/-- The opcode of a command (rule R46). -/
def opcode : Instr → Nat
  | .montmul => 1
  | .tomont => 2
  | .modexp => 3
  | .modinv => 4
  | .xgcd => 5

/-- The command word of a command: OP in bits 3:0, RSV zero (rules R45 and R46). -/
def encode (i : Instr) : Word := BitVec.ofNat 32 (opcode i)

/-- The command word whose low `nbits` bits are those of `w` and whose other bits are 0. -/
def tableWord (nbits w : Nat) : Word := BitVec.ofNat 32 (w % 2 ^ nbits)

/-- The decoder on a row of the opcode table. A command is ONE 32-bit word (rule R45), so the table's
bit 0 is the word's bit 0. -/
def decodeTableWord (nbits w : Nat) : Option Instr := (decode (tableWord nbits w)).toOption

end Sys2Proof
end

