-- ==== Sys2Proof/Machine/State.lean ====
section
/-! DEFINITION. Everything the spec gives the block (rules R14 to R31), as plain data; the reasons a
step can stop; the state after reset. -/

namespace Sys2Proof.Machine

/-- The values of STATUS.ERR: exactly the codes 0 to 5 (rule R86 and U12). -/
inductive ErrCode where
  /-- 0: the command delivered its result. -/
  | noError
  /-- 1: MODINV with A = 0 or gcd(A, N) other than 1 (rule R87). -/
  | inverseUndefined
  /-- 2: N = 0 (rule R88). -/
  | modulusZero
  /-- 3: N even and not 0 (rule R89). -/
  | modulusEven
  /-- 4: a factor not below N (rule R90). -/
  | operandRange
  /-- 5: an illegal command word (rule R91). -/
  | illegalCommand
deriving DecidableEq, Repr

/-- Why the machine stops. No command stops it: an error completion is a next state (rule R85). -/
inductive Fault where
  /-- A host access at an address below BASE, outside the block's register space (rule R32). Raised by
  the host's turn. SAFE: the model stops where the platform would serve the access elsewhere. -/
  | outsideBlock (addr : Nat)
deriving DecidableEq, Repr

/-- Why the model gives a step no meaning. -/
inductive Refusal where
  /-- No meaning for this command yet. Raised by no arm of exec. SAFE. -/
  | notModelled (mnemonic : String)
  /-- A host access of `size` bytes, not 4: "a model refuses such an access" (rule R35). Raised by the
  host's turn. SAFE. -/
  | accessWidth (size : Nat)
  /-- A host access at an offset that is no multiple of 4 (rule R35). Raised by the host's turn. SAFE. -/
  | accessAlignment (offset : Nat)
deriving DecidableEq, Repr

/-- The state of the block. The last three fields are the model's own, not the spec's. -/
structure State where
  /-- The parameters W (CAP.W, rule R25) and BASE (rule R6). Constant. -/
  cfg : Config
  /-- Bank A, first operand (rule R15). -/
  a : Bank
  /-- Bank B, second operand (rule R16). -/
  b : Bank
  /-- Bank N, modulus (rule R17). -/
  n : Bank
  /-- Bank RES, main result (rule R18). -/
  res : Bank
  /-- Bank X, magnitude of the first Bézout coefficient (rule R19). -/
  x : Bank
  /-- Bank Y, magnitude of the second Bézout coefficient (rule R19). -/
  y : Bank
  /-- SIGNS.XNEG (rule R20). -/
  xneg : Bool
  /-- SIGNS.YNEG (rule R20). -/
  yneg : Bool
  /-- CMD, the word of the most recently accepted command (rule R21). -/
  cmd : Word
  /-- STATUS.BUSY (rule R22). -/
  busy : Bool
  /-- STATUS.DONE (rule R22). -/
  done : Bool
  /-- STATUS.ERR (rule R22). -/
  err : ErrCode
  /-- CTRL.IE (rule R23). -/
  ie : Bool
  /-- The turns to come, oldest first: the interleaving of the agents (rule R12, log entry 5). -/
  agenda : List Turn
  /-- What the host's reads returned, latest first (log entry 11). -/
  readLog : List Word
  /-- How many reset inputs there were: picks the free values of log entry 2. -/
  fresh : Nat
deriving DecidableEq, Repr

/-- The state after reset for the parameters `c` (rule R30). The banks, which the spec leaves
unspecified, hold 0: DESIGN CHOICE, log entry 1. -/
def State.resetWith (c : Config) : State :=
  { cfg := c
    a := List.replicate c.words 0
    b := List.replicate c.words 0
    n := List.replicate c.words 0
    res := List.replicate c.words 0
    x := List.replicate c.words 0
    y := List.replicate c.words 0
    xneg := false, yneg := false
    cmd := 0
    busy := false, done := false, err := .noError
    ie := false
    agenda := [], readLog := [], fresh := 0 }

/-- The state after reset (rules R30 and R101), for the parameters of log entries 3 and 4. -/
def State.reset : State := State.resetWith Config.resetDefault

end Sys2Proof.Machine
end

