-- ==== Sys2Proof/Machine/Flags.lean ====
section
/-! DEFINITION. The control and status registers as the 32-bit words the host reads, the interrupt
output, and every change of a flag. Reserved bits read 0 (rules R20, R22, R23, R25). -/

namespace Sys2Proof.Machine

/-- The number of an error code in STATUS.ERR (rule R86). -/
def ErrCode.code : ErrCode → Nat
  | .noError => 0
  | .inverseUndefined => 1
  | .modulusZero => 2
  | .modulusEven => 3
  | .operandRange => 4
  | .illegalCommand => 5

/-- STATUS: BUSY in bit 0, DONE in bit 1, ERR in bits 7:4 (rules R22 and R55). -/
def State.statusWord (s : State) : Word :=
  BitVec.ofNat 32 (s.busy.toNat + 2 * s.done.toNat + 16 * s.err.code)

/-- CTRL: IE in bit 0 (rules R23 and R55). -/
def State.ctrlWord (s : State) : Word := BitVec.ofNat 32 s.ie.toNat

/-- CAP: W in bits 15:0 (rules R25 and R55). -/
def State.capWord (s : State) : Word := BitVec.ofNat 32 s.cfg.words

/-- SIGNS: XNEG in bit 0, YNEG in bit 1 (rules R20 and R55). -/
def State.signsWord (s : State) : Word := BitVec.ofNat 32 (s.xneg.toNat + 2 * s.yneg.toNat)

/-- The interrupt output, a level (rules R26 and R94). -/
def State.irq (s : State) : Bool := s.ie && s.done

/-- The flags of a completion: BUSY <- 0, DONE <- 1, ERR <- e (rule R59). -/
def State.finish (s : State) (e : ErrCode) : State :=
  { s with busy := false, done := true, err := e }

/-- ACK: DONE <- 0 and nothing else (rule R58). -/
def State.clearDone (s : State) : State := { s with done := false }

/-- CTRL.IE <- v (rule R56). -/
def State.setIe (s : State) (v : Bool) : State := { s with ie := v }

/-- START, acceptance of a command word (rule R57). -/
def State.start (s : State) (v : Word) : State :=
  { s with cmd := v, busy := true, done := false, err := .noError }

end Sys2Proof.Machine
end

