-- ==== Sys2Proof/Machine/Operands.lean ====
section
/-! DEFINITION. The banks as integers (rules R9, R14, R19), and what an offset names (rules R34, R54). -/

namespace Sys2Proof.Machine

/-- The integer a bank holds: the sum of word i times 2^(32*i) (rules R9 and R36). -/
def bankVal : Bank → Nat
  | [] => 0
  | w :: ws => w.toNat + 2 ^ 32 * bankVal ws

/-- The `w` words of the integer `v`, least significant first (rule R9). Every value the machine
writes so is below 2^(32*w); nothing is cut off. -/
def bankOfNat : Nat → Nat → Bank
  | 0, _ => []
  | w + 1, v => BitVec.ofNat 32 v :: bankOfNat w (v / 2 ^ 32)

/-- The number of a bank in the register map (rule R34). -/
def bankNumber : BankId → Nat
  | .a => 0
  | .b => 1
  | .n => 2
  | .res => 3
  | .x => 4
  | .y => 5

/-- A, B and N are operand banks, which the host may write; RES, X and Y are not (rule R14). -/
def isOperandBank : BankId → Bool
  | .a => true
  | .b => true
  | .n => true
  | .res => false
  | .x => false
  | .y => false

/-- The words of a bank. -/
def State.bank (s : State) : BankId → Bank
  | .a => s.a
  | .b => s.b
  | .n => s.n
  | .res => s.res
  | .x => s.x
  | .y => s.y

/-- Replace the words of a bank. -/
def State.setBank (s : State) (q : BankId) (v : Bank) : State :=
  match q with
  | .a => { s with a := v }
  | .b => { s with b := v }
  | .n => { s with n := v }
  | .res => { s with res := v }
  | .x => { s with x := v }
  | .y => { s with y := v }

/-- The operand a (rule R15). -/
def State.opA (s : State) : Nat := bankVal s.a

/-- The operand b (rule R16). -/
def State.opB (s : State) : Nat := bankVal s.b

/-- The modulus n (rule R17). -/
def State.opN (s : State) : Nat := bankVal s.n

/-- The integer in RES (rule R18). -/
def State.resVal (s : State) : Nat := bankVal s.res

/-- The signed value held as a magnitude and a sign bit (rule R19). -/
def signedVal (neg : Bool) (mag : Bank) : Int :=
  if neg then -(bankVal mag : Int) else (bankVal mag : Int)

/-- The x that X and SIGNS.XNEG represent (rule R19). -/
def State.xVal (s : State) : Int := signedVal s.xneg s.x

/-- The y that Y and SIGNS.YNEG represent (rule R19). -/
def State.yVal (s : State) : Int := signedVal s.yneg s.y

/-- The offset of word `i` of bank `q` with `w` words per bank (rule R34). -/
def bankOffset (w : Nat) (q : BankId) (i : Nat) : Nat := 0x100 + 4 * (bankNumber q * w + i)

/-- The bank with a number (rule R34). -/
def bankOfNumber : Nat → Option BankId
  | 0 => some .a
  | 1 => some .b
  | 2 => some .n
  | 3 => some .res
  | 4 => some .x
  | 5 => some .y
  | _ => none

/-- What the 32-bit word number `k` of the bank area names (rule R34). -/
def decodeBankWord (w k : Nat) : Reg :=
  match bankOfNumber (k / w) with
  | some q => .bankWord q (k % w)
  | none => .unused

/-- What an offset that is a multiple of 4 names, with `w` words per bank (rules R33, R37, R54). -/
def decodeOffset (w off : Nat) : Reg :=
  if off = 0x000 then .cmd
  else if off = 0x004 then .status
  else if off = 0x008 then .ctrl
  else if off = 0x00C then .cap
  else if off = 0x010 then .signs
  else if 0x100 ≤ off ∧ off < 0x100 + 24 * w then decodeBankWord w ((off - 0x100) / 4)
  else .unused

end Sys2Proof.Machine
end

