-- ==== Sys2Proof/Machine/Ops.lean ====
section
/-! DEFINITION. The shared operations: reading and writing a register, locating a host access, a
command's outcome, the error completion (the block's only form of an exception, rules R85 and R92),
the completion, and the reset input. There is no return from an exception (rule R96). -/

namespace Sys2Proof.Machine

/-- What a command that completes without error writes (rule R59): RES, and for XGCD the signed
Bézout coefficients, which go to X, Y and SIGNS (rule R19). -/
structure Writes where
  res : Nat
  coeffs : Option (Int × Int)
deriving DecidableEq, Repr

/-- The outcome of a command, `Ok(writes)` or `Err(code)` (rules R59 and R60). -/
inductive CmdOutcome where
  | ok (writes : Writes)
  | err (code : ErrCode)
deriving DecidableEq, Repr

/-- RES <- v. -/
def State.putRes (s : State) (v : Nat) : State := { s with res := bankOfNat s.cfg.words v }

/-- X, Y <- the magnitudes and SIGNS <- the signs of x and y; zero has sign bit 0 (rules R19, R81). -/
def State.putCoeffs (s : State) (x y : Int) : State :=
  { s with
    x := bankOfNat s.cfg.words x.natAbs
    y := bankOfNat s.cfg.words y.natAbs
    xneg := decide (x < 0)
    yneg := decide (y < 0) }

/-- Perform every write of a successful command (rule R59). -/
def State.putWrites (s : State) (r : Writes) : State :=
  match r.coeffs with
  | none => s.putRes r.res
  | some (x, y) => (s.putRes r.res).putCoeffs x y

/-- Taking an exception, in the block's only form, the error completion (rule R92): BUSY <- 0,
DONE <- 1, ERR <- code. Nothing is saved and nothing is redirected (rule R95). -/
def State.raiseErr (s : State) (code : ErrCode) : State := s.finish code

/-- The completion step of the engine (rule R59). -/
def State.complete (s : State) (o : CmdOutcome) : State :=
  match o with
  | .ok r => (s.putWrites r).finish .noError
  | .err code => s.raiseErr code

/-- Where a host access goes: the register at its offset from BASE, or why it has no meaning
(rules R32, R35, R54; the order of the three checks is a DESIGN CHOICE, log entry 8). -/
def locate (c : Config) (addr size : Nat) : Host.Outcome Reg Fault Refusal :=
  if addr < c.base then .fault (.outsideBlock addr)
  else if size ≠ 4 then .refused (.accessWidth size)
  else if (addr - c.base) % 4 ≠ 0 then .refused (.accessAlignment (addr - c.base))
  else .next (decodeOffset c.words (addr - c.base))

/-- The word a read of the register returns (rule R55). -/
def State.readReg (s : State) : Reg → Word
  | .cmd => s.cmd
  | .status => s.statusWord
  | .ctrl => s.ctrlWord
  | .cap => s.capWord
  | .signs => s.signsWord
  | .bankWord q i => (s.bank q).getD i 0
  | .unused => 0

/-- What a write of `v` to the register does (rule R56). -/
def State.writeReg (s : State) (r : Reg) (v : Word) : State :=
  match r with
  | .cmd => if s.busy then s else s.start v
  | .status => if v[1] then s.clearDone else s
  | .ctrl => s.setIe (v[0])
  | .cap => s
  | .signs => s
  | .bankWord q i => if isOperandBank q && !s.busy then s.setBank q ((s.bank q).set i v) else s
  | .unused => s

/-- The host takes the read data. -/
def State.logRead (s : State) (v : Word) : State := { s with readLog := v :: s.readLog }

/-- The first turn of the agenda is over. -/
def State.popTurn (s : State) : State := { s with agenda := s.agenda.tail }

/-- The words of bank number `j` after the reset input number `k`: free values (rules R30, R102;
log entry 2). -/
def freeBank (w k j : Nat) : Bank := (List.range w).map (Config.unspecifiedWord k j)

/-- The reset input (rules R101 and R102): the state of rule R30 for the same parameters, with the
banks unspecified; a command in progress is abandoned. What is outside the block (the turns to come,
what the host has read) stays. -/
def State.resetInput (s : State) : State :=
  { State.resetWith s.cfg with
    a := freeBank s.cfg.words s.fresh (bankNumber .a)
    b := freeBank s.cfg.words s.fresh (bankNumber .b)
    n := freeBank s.cfg.words s.fresh (bankNumber .n)
    res := freeBank s.cfg.words s.fresh (bankNumber .res)
    x := freeBank s.cfg.words s.fresh (bankNumber .x)
    y := freeBank s.cfg.words s.fresh (bankNumber .y)
    agenda := s.agenda
    readLog := s.readLog
    fresh := s.fresh + 1 }

end Sys2Proof.Machine
end

