-- ==== Sys2Proof/Machine/Gcd.lean ====
section
/-! DEFINITION. The extended-GCD datapath, commands XGCD and MODINV (rules R77 to R83). -/

namespace Sys2Proof.Machine

/-- A triple (u1, u2, u3) of rule R77. The third component is never negative (rule R78 b). -/
structure Triple where
  c1 : Int
  c2 : Int
  c3 : Nat
deriving DecidableEq, Repr

/-- The new v triple of one step, u - q*v with q = u3 // v3 (rule R77). -/
def tripleStep (u v : Triple) : Triple :=
  { c1 := u.c1 - (u.c3 / v.c3 : Nat) * v.c1
    c2 := u.c2 - (u.c3 / v.c3 : Nat) * v.c2
    c3 := u.c3 - u.c3 / v.c3 * v.c3 }

/-- The loop of rule R77, at most `fuel` steps: it ends when v3 = 0 and returns the u triple. -/
def xgcdLoop : Nat → Triple → Triple → Triple
  | 0, u, _ => u
  | fuel + 1, u, v => if v.c3 = 0 then u else xgcdLoop fuel v (tripleStep u v)

/-- Xgcd(a, b) as (x, y, g) (rule R77). Every step makes v3 smaller, and v3 starts at b, so the fuel
b + 1 is never used up (DEDUCED from rule R79, log entry 13). -/
def xgcd (a b : Nat) : Triple := xgcdLoop (b + 1) ⟨1, 0, a⟩ ⟨0, 1, b⟩

/-- ExecXGCD (rule R81). -/
def cmdXgcd (a b : Nat) : CmdOutcome :=
  .ok { res := (xgcd a b).c3, coeffs := some ((xgcd a b).c1, (xgcd a b).c2) }

/-- ExecMODINV (rule R82). -/
def cmdModinv (a n : Nat) : CmdOutcome :=
  if n = 0 then .err .modulusZero
  else if a = 0 then .err .inverseUndefined
  else if (xgcd a n).c3 ≠ 1 then .err .inverseUndefined
  else .ok { res := ((xgcd a n).c1 % (n : Int)).toNat, coeffs := none }

/-- XGCD: the completion of the command in progress (rules R59 and R81). N is not read. -/
def execXgcd (s : State) : Host.Outcome State Fault Refusal :=
  .next (s.complete (cmdXgcd s.opA s.opB))

/-- MODINV: the completion of the command in progress (rules R59 and R82). B is not read. -/
def execModinv (s : State) : Host.Outcome State Fault Refusal :=
  .next (s.complete (cmdModinv s.opA s.opN))

end Sys2Proof.Machine
end

