-- ==== Sys2Proof/Machine/Modexp.lean ====
section
/-! DEFINITION. Modular exponentiation, command MODEXP (rules R70 to R74). -/

namespace Sys2Proof.Machine

/-- (a ^ e) mod n for an exponent e of at most k bits, by repeated squaring so that it can be run; it
is the exact power's remainder (rules R8 and R70; log entry 12). -/
def powMod : Nat → Nat → Nat → Nat → Nat
  | 0, _, _, n => 1 % n
  | k + 1, a, e, n =>
    if e % 2 = 1 then a * powMod k (a * a % n) (e / 2) n % n
    else powMod k (a * a % n) (e / 2) n

/-- ExecMODEXP (rule R70); `k` is the width of the exponent. -/
def cmdModexp (k a e n : Nat) : CmdOutcome :=
  if n = 0 then .err .modulusZero
  else if n % 2 = 0 then .err .modulusEven
  else .ok { res := powMod k a e n, coeffs := none }

/-- MODEXP: the completion of the command in progress (rules R59 and R70). -/
def execModexp (s : State) : Host.Outcome State Fault Refusal :=
  .next (s.complete (cmdModexp s.cfg.bits s.opA s.opB s.opN))

end Sys2Proof.Machine
end

