-- ==== Sys2Proof/Machine/Montgomery.lean ====
section
/-! DEFINITION. The Montgomery kernel, commands MONTMUL and TOMONT (rules R64 and R65). -/

namespace Sys2Proof.Machine

/-- Rinv: the integer in [0, n) with (2^k * Rinv) mod n = 1 mod n, for odd n (rule R64). For odd n the
inverse of 2 is (n + 1) / 2, so that of 2^k is its k-th power (DEDUCED, log entry 12). -/
def montRinv (k n : Nat) : Nat := ((n + 1) / 2) ^ k % n

/-- MontProd(a, b, n) = (a * b * Rinv) mod n with R = 2^k (rule R64). -/
def montProd (k a b n : Nat) : Nat := a * b * montRinv k n % n

/-- M(a) = (a * R) mod n with R = 2^k (rules R65 and R66). -/
def montForm (k a n : Nat) : Nat := a * 2 ^ k % n

/-- ExecMONTMUL (rule R64). -/
def cmdMontmul (k a b n : Nat) : CmdOutcome :=
  if n = 0 then .err .modulusZero
  else if n % 2 = 0 then .err .modulusEven
  else if n ≤ a ∨ n ≤ b then .err .operandRange
  else .ok { res := montProd k a b n, coeffs := none }

/-- ExecTOMONT (rule R65). -/
def cmdTomont (k a n : Nat) : CmdOutcome :=
  if n = 0 then .err .modulusZero
  else if n % 2 = 0 then .err .modulusEven
  else if n ≤ a then .err .operandRange
  else .ok { res := montForm k a n, coeffs := none }

/-- MONTMUL: the completion of the command in progress (rules R59 and R64). -/
def execMontmul (s : State) : Host.Outcome State Fault Refusal :=
  .next (s.complete (cmdMontmul s.cfg.bits s.opA s.opB s.opN))

/-- TOMONT: the completion of the command in progress (rules R59 and R65). B is not read. -/
def execTomont (s : State) : Host.Outcome State Fault Refusal :=
  .next (s.complete (cmdTomont s.cfg.bits s.opA s.opN))

end Sys2Proof.Machine
end

