-- ==== Sys2Proof/Machine/Dispatch.lean ====
section
/-! DEFINITION. One arm per command: its completion (rule R60). -/

namespace Sys2Proof.Machine

/-- The completion of a legal command (rules R59 and R60). Its precondition BUSY = 1 is checked by the
step that calls it (log entry 15). -/
def exec (i : Instr) (s : State) : Host.Outcome State Fault Refusal :=
  match i with
  | .montmul => Sys2Proof.Machine.execMontmul s
  | .tomont => Sys2Proof.Machine.execTomont s
  | .modexp => Sys2Proof.Machine.execModexp s
  | .modinv => Sys2Proof.Machine.execModinv s
  | .xgcd => Sys2Proof.Machine.execXgcd s

end Sys2Proof.Machine
end

