-- ==== Sys2Proof/Machine/HostAccess.lean ====
section
/-! DEFINITION. The host's two operations (rules R53 to R58) and the notation of rules R50 and R51. -/

namespace Sys2Proof.Machine

/-- RDW, host read (rule R55): the value goes to the host and no state of the block changes. -/
def execRead (addr size : Nat) (s : State) : Host.Outcome State Fault Refusal :=
  match locate s.cfg addr size with
  | .next r => .next (s.logRead (s.readReg r))
  | .fault e => .fault e
  | .refused e => .refused e

/-- WRW, host write (rule R56). -/
def execWrite (addr size : Nat) (v : Word) (s : State) : Host.Outcome State Fault Refusal :=
  match locate s.cfg addr size with
  | .next r => .next (s.writeReg r v)
  | .fault e => .fault e
  | .refused e => .refused e

/-- One operation of the host (rule R53). -/
def execHost (op : HostOp) (s : State) : Host.Outcome State Fault Refusal :=
  match op with
  | .read addr size => execRead addr size s
  | .write addr size v => execWrite addr size v s

/-- `RDW off` (rule R50). -/
def rdw (c : Config) (off : Nat) : Turn := .host (.read (c.base + off) 4)

/-- `WRW off, v` (rule R50). -/
def wrw (c : Config) (off : Nat) (v : Word) : Turn := .host (.write (c.base + off) 4 v)

/-- The writes of `WR Q, v` from word `i` on (rule R51). -/
def wrWords (c : Config) (q : BankId) : Nat → Bank → List Turn
  | _, [] => []
  | i, w :: ws => wrw c (bankOffset c.words q i) w :: wrWords c q (i + 1) ws

/-- `WR Q, v`: one write for every word of the bank, word 0 first (rules R51 and R62). -/
def wr (c : Config) (q : BankId) (v : Nat) : List Turn := wrWords c q 0 (bankOfNat c.words v)

/-- `RD Q`: one read for every word of the bank, word 0 first (rules R51 and R62). -/
def rd (c : Config) (q : BankId) : List Turn :=
  (List.range c.words).map fun i => rdw c (bankOffset c.words q i)

/-- `START m` (rule R51). -/
def startCmd (c : Config) (i : Instr) : List Turn := [wrw c 0x000 (encode i)]

/-- `ACK` (rule R51). -/
def ackOp (c : Config) : List Turn := [wrw c 0x004 0x00000002]

/-- `IEON` (rule R51). -/
def ieOn (c : Config) : List Turn := [wrw c 0x008 0x00000001]

/-- `IEOFF` (rule R51). -/
def ieOff (c : Config) : List Turn := [wrw c 0x008 0x00000000]

/-- `FROMMONT`: `WR B, 1` and then `START MONTMUL` (rules R51 and R69). -/
def fromMont (c : Config) : List Turn := wr c .b 1 ++ startCmd c .montmul

/-- `WAIT` with `polls` polls. How many there are is the host's own control flow (rule R51). -/
def waitPolls (c : Config) (polls : Nat) : List Turn := List.replicate polls (rdw c 0x004)

/-- `ERR(s)`: bits 7:4 of a STATUS value (rule R51). -/
def errOf (status : Word) : Nat := status.toNat / 16 % 16

end Sys2Proof.Machine
end

