-- ==== Sys2Proof/Machine/Step.lean ====
section
/-! DEFINITION. One step of the block: the next turn of the agenda (rule R12). -/

namespace Sys2Proof.Machine

/-- The engine's step (rule R59): if a command is in progress it completes, an illegal one with
ILLEGAL_COMMAND (rules R60 and R91); if none is, nothing happens (log entry 10). -/
def engineStep (s : State) : Host.Outcome State Fault Refusal :=
  if s.busy then
    match decode s.cmd with
    | .ok i => exec i s
    | .error _ => .next (s.raiseErr .illegalCommand)
  else .next s

/-- One step: the first turn of the agenda; with no turn to come, the engine's, so that every accepted
command completes (rule R61; log entry 5). -/
def step (s : State) : Host.Outcome State Fault Refusal :=
  match s.agenda with
  | [] => engineStep s
  | .engine :: _ => engineStep s.popTurn
  | .host op :: _ => execHost op s.popTurn
  | .reset :: _ => .next s.popTurn.resetInput

/-- `s` with a command word accepted (rule R57) and the engine to move next. The block fetches
nothing (rule R27): this stands for the host's write to CMD (log entry 6). -/
def State.withFetchWord (s : State) (nbits w : Nat) : State :=
  { s.start (tableWord nbits w) with
    agenda := match s.agenda with
      | [] => []
      | t :: ts => .engine :: t :: ts }

end Sys2Proof.Machine
end

