-- ==== Sys2Proof/Machine/Reference.lean ====
section
/-! DEFINITION. The reference datapaths of rules R67 and R75, information and not architecture (rule
R11), and the Euclid loop of rule R77 stopped after any number of steps. No step of the machine uses
them; the statements compare them with what the commands compute. -/

namespace Sys2Proof.Machine

/-- One add-and-shift step of rule R67 on the accumulator `acc`, for the bit `i` of `a`. -/
def montStep (a b n i acc : Nat) : Nat :=
  let t := acc + a / 2 ^ i % 2 * b
  (if t % 2 = 1 then t + n else t) / 2

/-- The accumulator S after the steps 0 to m - 1 of rule R67. -/
def montAcc (a b n : Nat) : Nat → Nat
  | 0 => 0
  | i + 1 => montStep a b n i (montAcc a b n i)

/-- The radix-2 Montgomery multiplication of rule R67: k steps and one conditional subtraction. -/
def montRadix2 (k a b n : Nat) : Nat :=
  if n ≤ montAcc a b n k then montAcc a b n k - n else montAcc a b n k

/-- 1 mod n doubled m times modulo n (rule R75). -/
def modDouble (n : Nat) : Nat → Nat
  | 0 => 1 % n
  | m + 1 => 2 * modDouble n m % n

/-- bitlen(e) (rule R8). -/
def bitLen (e : Nat) : Nat := if e = 0 then 0 else Nat.log2 e + 1

/-- The scan of rule R75 over the bits m - 1 down to 0 of the exponent. -/
def ladderScan (k n e abar : Nat) : Nat → Nat → Nat
  | 0, acc => acc
  | i + 1, acc =>
    let sq := montProd k acc acc n
    ladderScan k n e abar i (if e / 2 ^ i % 2 = 1 then montProd k sq abar n else sq)

/-- The square-and-multiply ladder of rule R75, on Montgomery forms. -/
def modexpLadder (k a e n : Nat) : Nat :=
  let one := 1 % n
  let rr := modDouble n (2 * k)
  let abar := montProd k (a % n) rr n
  montProd k (ladderScan k n e abar (bitLen e) (montProd k one rr n)) one n

/-- The two triples (u, v) of rule R77 after `m` steps of its loop, or at its end if it is sooner. -/
def xgcdIter (a b : Nat) : Nat → Triple × Triple
  | 0 => (⟨1, 0, a⟩, ⟨0, 1, b⟩)
  | m + 1 =>
    let p := xgcdIter a b m
    if p.2.c3 = 0 then p else (p.2, tripleStep p.1 p.2)

end Sys2Proof.Machine
end

