-- ==== Sys2Proof/Safety.lean ====
section
/-! DEFINITION. The terms the statements use: the invariant of the state (rule R31), which turns the
spec defines, and when a result may be used (rule R108). -/

namespace Sys2Proof.Machine

/-- Every bank is K bits wide (rule R14). -/
abbrev State.BanksFit (s : State) : Prop :=
  s.a.length = s.cfg.words ∧ s.b.length = s.cfg.words ∧ s.n.length = s.cfg.words ∧
    s.res.length = s.cfg.words ∧ s.x.length = s.cfg.words ∧ s.y.length = s.cfg.words

/-- The invariant: the parameters are admitted (rule R6), every bank is K bits wide (rule R14), BUSY and
DONE are never both 1 and ERR is 0 while busy (rule R31 a and b), a sign bit is 1 only on a magnitude
other than 0 (rule R19). Rule R31 c holds by the type of ERR. -/
abbrev State.Inv (s : State) : Prop :=
  s.cfg.wf = true ∧ s.BanksFit ∧ ¬(s.busy = true ∧ s.done = true) ∧
    (s.busy = true → s.err = .noError) ∧
    (s.xneg = true → bankVal s.x ≠ 0) ∧ (s.yneg = true → bankVal s.y ≠ 0)

/-- The result banks hold the result of the last command (rule R108). -/
abbrev State.ResultValid (s : State) : Prop := s.done = true ∧ s.err = .noError

/-- The engine moves next: it is the first turn of the agenda, or there is none (log entry 5). -/
abbrev State.EngineTurn (s : State) : Prop := s.agenda = [] ∨ s.agenda.head? = some .engine

/-- The platform resets the block next. -/
abbrev State.ResetTurn (s : State) : Prop := s.agenda.head? = some .reset

/-- `k` steps, stopping at the first fault or refusal. -/
def runSteps : Nat → State → Host.Outcome State Fault Refusal
  | 0, s => .next s
  | k + 1, s =>
    match step s with
    | .next t => runSteps k t
    | .fault e => .fault e
    | .refused e => .refused e

/-- A turn of the host that the spec defines: neither the engine's nor a reset (rule R35). -/
def isDefinedHostTurn (c : Config) (t : Turn) : Bool :=
  match t with
  | .host op => op.wf c
  | .engine => false
  | .reset => false

end Sys2Proof.Machine
end

