-- ==== Sys2Proof/Certificates/Slice0/Obligations.lean ====
section
/-! DEFINITION. The statements about the model for the provers, from the numbered rules of spec/. -/

open Sys2Proof Sys2Proof.Machine

/-! ## Command words -/

/-- Rule R46, its table and R48: the five words decode to their commands; OP = 0, OP = 6 and 15, and
words with a bit of RSV set are rejected by name. -/
def Obligations.DecodeOfSampleCommandWords : Prop :=
  decode 0x00000001 = .ok .montmul ∧ decode 0x00000002 = .ok .tomont ∧
  decode 0x00000003 = .ok .modexp ∧ decode 0x00000004 = .ok .modinv ∧
  decode 0x00000005 = .ok .xgcd ∧
  decode 0x00000000 = .error .opcodeZero ∧ decode 0x00000006 = .error .opcodeReserved ∧
  decode 0x0000000F = .error .opcodeReserved ∧ decode 0x00000013 = .error .reservedBitsSet ∧
  decode 0x80000001 = .error .reservedBitsSet ∧ decode 0x00000010 = .error .reservedBitsSet

/-- Rule R46: for every 32-bit word, it is a command exactly when RSV = 0 and OP is one of 1 to 5; and
it decodes to a command exactly when it is that command's word, 1 to 5 in the order of the table. -/
def Obligations.CommandWordsAreExactlyTheFiveEncodings : Prop :=
  (∀ w : Word, (∃ i, decode w = .ok i) ↔
    w.extractLsb' 4 28 = 0 ∧ 1 ≤ (w.extractLsb' 0 4).toNat ∧ (w.extractLsb' 0 4).toNat ≤ 5) ∧
  (∀ (w : Word) (i : Instr), decode w = .ok i ↔ w = encode i) ∧
  (encode .montmul).toNat = 1 ∧ (encode .tomont).toNat = 2 ∧ (encode .modexp).toNat = 3 ∧
  (encode .modinv).toNat = 4 ∧ (encode .xgcd).toNat = 5

/-! ## One step -/

/-- Rules R59 and R60: while a command is in progress and the engine moves, the step is exec of the
decoded command, on the state whose first turn is taken. (That the engine moves when the agenda is empty
is the model's choice, log entry 5.) -/
def Obligations.EngineStepRunsTheDecodedCommand : Prop :=
  ∀ (s : State) (i : Instr), s.busy = true → decode s.cmd = .ok i →
    (s.agenda = [] → step s = exec i s) ∧
    (∀ rest, s.agenda = .engine :: rest → step s = exec i { s with agenda := rest })

/-- The model's own: withFetchWord of a command's word makes the next step run that command, on `s`
with the word accepted as rule R57 says (log entry 6). -/
def Obligations.FetchedCommandWordRunsNext : Prop :=
  ∀ (s : State) (i : Instr),
    step (s.withFetchWord 32 (encode i).toNat) =
      exec i { s with cmd := encode i, busy := true, done := false, err := .noError }

/-- Rules R48 and R91: a command in progress whose word has RSV other than 0, OP = 0 or OP above 5
completes with ILLEGAL_COMMAND, whatever the banks hold; no bank is written, CMD keeps the word. -/
def Obligations.IllegalWordCompletesWithIllegalCommand : Prop :=
  ∀ s : State, s.EngineTurn → s.busy = true →
    (s.cmd.extractLsb' 4 28 ≠ 0 ∨ s.cmd.extractLsb' 0 4 = 0 ∨ 6 ≤ (s.cmd.extractLsb' 0 4).toNat) →
    step s = .next { s with
      agenda := s.agenda.tail, busy := false, done := true, err := .illegalCommand }

/-- The model's own (log entry 10): with no command in progress the engine's turn changes nothing. -/
def Obligations.IdleEngineTurnChangesNothing : Prop :=
  ∀ s : State, s.EngineTurn → s.busy = false → step s = .next { s with agenda := s.agenda.tail }

/-- Rules R59 and R61: a command in progress always completes at the engine's turn: BUSY 0, DONE 1,
irq equal to CTRL.IE, and the operand banks, CMD, CTRL and the parameters unchanged. (That the engine
moves when the agenda is empty is the model's choice, log entry 5.) -/
def Obligations.EveryCommandCompletesAtTheEngineTurn : Prop :=
  ∀ s : State, s.EngineTurn → s.busy = true → ∃ t, step s = .next t ∧
    t.busy = false ∧ t.done = true ∧ t.irq = s.ie ∧
    t = { s with
      agenda := s.agenda.tail, busy := false, done := true, err := t.err
      res := t.res, x := t.x, y := t.y, xneg := t.xneg, yneg := t.yneg }

/-! ## The commands -/

/-- Rule R64, MONTMUL, command word 1: the errors in their order, and otherwise RES is the one integer t with
0 <= t < N and t * 2^K = A * B modulo N; in each case nothing else but STATUS changes. -/
def Obligations.MontmulGivesTheMontgomeryProduct : Prop :=
  (encode .montmul).toNat = 1 ∧ ∀ s : State, s.Inv →
    (s.opN = 0 → exec .montmul s =
      .next { s with busy := false, done := true, err := .modulusZero }) ∧
    (s.opN ≠ 0 → s.opN % 2 = 0 → exec .montmul s =
      .next { s with busy := false, done := true, err := .modulusEven }) ∧
    (s.opN % 2 = 1 → (s.opN ≤ s.opA ∨ s.opN ≤ s.opB) → exec .montmul s =
      .next { s with busy := false, done := true, err := .operandRange }) ∧
    (s.opN % 2 = 1 → s.opA < s.opN → s.opB < s.opN → ∃ t, exec .montmul s = .next t ∧
      t = { s with res := t.res, busy := false, done := true, err := .noError } ∧
      t.res.length = s.cfg.words ∧ t.resVal < s.opN ∧
      t.resVal * 2 ^ s.cfg.bits % s.opN = s.opA * s.opB % s.opN ∧
      ∀ u, u < s.opN → u * 2 ^ s.cfg.bits % s.opN = s.opA * s.opB % s.opN → u = t.resVal)

/-- Rule R65, TOMONT, command word 2: the errors in their order, and otherwise RES is A * 2^K modulo N; in each case
nothing else but STATUS changes, and B has no influence. -/
def Obligations.TomontGivesTheMontgomeryForm : Prop :=
  (encode .tomont).toNat = 2 ∧ ∀ s : State, s.Inv →
    (s.opN = 0 → exec .tomont s =
      .next { s with busy := false, done := true, err := .modulusZero }) ∧
    (s.opN ≠ 0 → s.opN % 2 = 0 → exec .tomont s =
      .next { s with busy := false, done := true, err := .modulusEven }) ∧
    (s.opN % 2 = 1 → s.opN ≤ s.opA → exec .tomont s =
      .next { s with busy := false, done := true, err := .operandRange }) ∧
    (s.opN % 2 = 1 → s.opA < s.opN → ∃ t, exec .tomont s = .next t ∧
      t = { s with res := t.res, busy := false, done := true, err := .noError } ∧
      t.res.length = s.cfg.words ∧ t.resVal = s.opA * 2 ^ s.cfg.bits % s.opN)

/-- Rule R70, MODEXP, command word 3: the errors in their order, and otherwise RES is A ^ B modulo N for every A and
B; in each case nothing else but STATUS changes. -/
def Obligations.ModexpGivesThePower : Prop :=
  (encode .modexp).toNat = 3 ∧ ∀ s : State, s.Inv →
    (s.opN = 0 → exec .modexp s =
      .next { s with busy := false, done := true, err := .modulusZero }) ∧
    (s.opN ≠ 0 → s.opN % 2 = 0 → exec .modexp s =
      .next { s with busy := false, done := true, err := .modulusEven }) ∧
    (s.opN % 2 = 1 → ∃ t, exec .modexp s = .next t ∧
      t = { s with res := t.res, busy := false, done := true, err := .noError } ∧
      t.res.length = s.cfg.words ∧ t.resVal = s.opA ^ s.opB % s.opN)

/-- Rule R71: a base that is not below an odd modulus is no error, and gives the power of the reduced
base. -/
def Obligations.ModexpReducesALargeBase : Prop :=
  ∀ s : State, s.Inv → s.opN % 2 = 1 → s.opN ≤ s.opA → ∃ t, exec .modexp s = .next t ∧
    t.err = .noError ∧ t.resVal = s.opA ^ s.opB % s.opN ∧
    t.resVal = (s.opA % s.opN) ^ s.opB % s.opN

/-- Rule R73: for an odd modulus a zero exponent gives 1 modulo N, also for A = 0: 1 for N above 1 and
0 for N = 1. -/
def Obligations.ModexpOfZeroExponentIsOne : Prop :=
  ∀ s : State, s.Inv → s.opN % 2 = 1 → s.opB = 0 → ∃ t, exec .modexp s = .next t ∧
    t.err = .noError ∧ (1 < s.opN → t.resVal = 1) ∧ (s.opN = 1 → t.resVal = 0)

/-- Rule R82, MODINV, command word 4: MODULUS_ZERO for N = 0, then INVERSE_UNDEFINED for A = 0 and for
gcd(A, N) other than 1; otherwise, for every N odd or even and every A, RES is the integer in [0, N)
with A * RES = 1 modulo N (0 for N = 1); in each case nothing else but STATUS changes. -/
def Obligations.ModinvGivesTheInverse : Prop :=
  (encode .modinv).toNat = 4 ∧ ∀ s : State, s.Inv →
    (s.opN = 0 → exec .modinv s =
      .next { s with busy := false, done := true, err := .modulusZero }) ∧
    (s.opN ≠ 0 → s.opA = 0 → exec .modinv s =
      .next { s with busy := false, done := true, err := .inverseUndefined }) ∧
    (s.opN ≠ 0 → s.opA ≠ 0 → Nat.gcd s.opA s.opN ≠ 1 → exec .modinv s =
      .next { s with busy := false, done := true, err := .inverseUndefined }) ∧
    (s.opN ≠ 0 → s.opA ≠ 0 → Nat.gcd s.opA s.opN = 1 → ∃ t, exec .modinv s = .next t ∧
      t = { s with res := t.res, busy := false, done := true, err := .noError } ∧
      t.res.length = s.cfg.words ∧ t.resVal < s.opN ∧
      s.opA * t.resVal % s.opN = 1 % s.opN ∧
      ∀ u, u < s.opN → s.opA * u % s.opN = 1 % s.opN → u = t.resVal)

/-- Rule R81 and the law of rule R84 (b), which the spec derives from R77 and R78: XGCD completes without error for every A and B; RES is gcd(A, B), and
the x and y that X, Y and SIGNS represent satisfy A*x + B*y = gcd(A, B); nothing else but STATUS
changes. -/
def Obligations.XgcdGivesTheGcdAndBezoutCoefficients : Prop :=
  ∀ s : State, s.Inv → ∃ t, exec .xgcd s = .next t ∧
    t = { s with
      res := t.res, x := t.x, y := t.y, xneg := t.xneg, yneg := t.yneg
      busy := false, done := true, err := .noError } ∧
    t.res.length = s.cfg.words ∧ t.x.length = s.cfg.words ∧ t.y.length = s.cfg.words ∧
    t.resVal = Nat.gcd s.opA s.opB ∧
    (s.opA : Int) * t.xVal + s.opB * t.yVal = Nat.gcd s.opA s.opB

/-- Rule R81 with R77: for every A and B, XGCD (command word 5) stores in RES, X, Y and SIGNS, exactly and
with the sign bits of rule R19, the gcd and the one pair that the algorithm reaches; it never errs, and
nothing else but STATUS changes. The pair is pinned down by its recursion: (1, 0) for B = 0, and otherwise (y', x' -
(a // b) * y') where (x', y') is the pair of b and a mod b. -/
def Obligations.XgcdStoresThePairOfTheAlgorithm : Prop :=
  (encode .xgcd).toNat = 5 ∧
  (∀ s : State, s.Inv → ∃ t, exec .xgcd s = .next t ∧
    t = { s with
      res := t.res, x := t.x, y := t.y, xneg := t.xneg, yneg := t.yneg
      busy := false, done := true, err := .noError } ∧
    t.res.length = s.cfg.words ∧ t.x.length = s.cfg.words ∧ t.y.length = s.cfg.words ∧
    t.resVal = (xgcd s.opA s.opB).c3 ∧
    t.xVal = (xgcd s.opA s.opB).c1 ∧ t.yVal = (xgcd s.opA s.opB).c2 ∧
    (t.xneg = true ↔ t.xVal < 0) ∧ (t.yneg = true ↔ t.yVal < 0)) ∧
  (∀ a, xgcd a 0 = ⟨1, 0, a⟩) ∧
  (∀ a b, 0 < b → xgcd a b =
    ⟨(xgcd b (a % b)).c2, (xgcd b (a % b)).c1 - (a / b : Nat) * (xgcd b (a % b)).c2,
      (xgcd b (a % b)).c3⟩)

/-- The spec's own inferences about the loop of rule R77 (its rules R78, R79 and R80, marked derived or
general knowledge), after any number of steps: both triples satisfy u1*a + u2*b = u3, the third component
of a step is u3 mod v3, the gcd is kept, the coefficients stay within max(1, b) and max(1, a); and the loop
has ended after b + 1 steps, with the triple that the commands use. -/
def Obligations.EuclidLoopInvariantsAndEnd : Prop :=
  ∀ a b m : Nat,
    ((xgcdIter a b m).1.c1 * a + (xgcdIter a b m).1.c2 * b = (xgcdIter a b m).1.c3 ∧
      (xgcdIter a b m).2.c1 * a + (xgcdIter a b m).2.c2 * b = (xgcdIter a b m).2.c3) ∧
    (tripleStep (xgcdIter a b m).1 (xgcdIter a b m).2).c3 =
      (xgcdIter a b m).1.c3 % (xgcdIter a b m).2.c3 ∧
    Nat.gcd (xgcdIter a b m).1.c3 (xgcdIter a b m).2.c3 = Nat.gcd a b ∧
    ((xgcdIter a b m).1.c1.natAbs ≤ max 1 b ∧ (xgcdIter a b m).2.c1.natAbs ≤ max 1 b) ∧
    ((xgcdIter a b m).1.c2.natAbs ≤ max 1 a ∧ (xgcdIter a b m).2.c2.natAbs ≤ max 1 a) ∧
    (b < m → (xgcdIter a b m).2.c3 = 0 ∧ xgcd a b = (xgcdIter a b m).1)

/-- The law of rule R84 (c), which the spec derives: when MODINV succeeds on (A, N), XGCD on (A, B = N) gives RES = 1 and x mod N equal to
MODINV's result. The two commands run from two states of the same width. -/
def Obligations.ModinvAgreesWithXgcd : Prop :=
  ∀ s s' t : State, s.Inv → s'.Inv → s'.opA = s.opA → s'.opB = s.opN →
    exec .modinv s = .next t → t.err = .noError →
    ∃ t', exec .xgcd s' = .next t' ∧ t'.resVal = 1 ∧ t'.xVal % (s.opN : Int) = t.resVal

/-! ## Errors, frames, dependence -/

/-- Rule R93 and the causes of rules R87 to R91: the error code of every command as a function of the
operands, one code in the fixed order; and the illegal word before everything. -/
def Obligations.ErrorCodeIsTheFirstInTheFixedOrder : Prop :=
  (∀ s t : State, exec .montmul s = .next t → t.err =
    if s.opN = 0 then .modulusZero else if s.opN % 2 = 0 then .modulusEven
    else if s.opN ≤ s.opA ∨ s.opN ≤ s.opB then .operandRange else .noError) ∧
  (∀ s t : State, exec .tomont s = .next t → t.err =
    if s.opN = 0 then .modulusZero else if s.opN % 2 = 0 then .modulusEven
    else if s.opN ≤ s.opA then .operandRange else .noError) ∧
  (∀ s t : State, exec .modexp s = .next t → t.err =
    if s.opN = 0 then .modulusZero else if s.opN % 2 = 0 then .modulusEven else .noError) ∧
  (∀ s t : State, exec .modinv s = .next t → t.err =
    if s.opN = 0 then .modulusZero
    else if s.opA = 0 ∨ Nat.gcd s.opA s.opN ≠ 1 then .inverseUndefined else .noError) ∧
  (∀ s t : State, exec .xgcd s = .next t → t.err = .noError) ∧
  (∀ s t : State, s.EngineTurn → s.busy = true → step s = .next t →
    (t.err = .illegalCommand ↔ ∀ i, s.cmd ≠ encode i))

/-- Rule R92: a completion with an error, of any command word, changes exactly BUSY, DONE and ERR. -/
def Obligations.ErrorCompletionChangesThreeFields : Prop :=
  ∀ s t : State, s.EngineTurn → s.busy = true → step s = .next t → t.err ≠ .noError →
    t = { s with agenda := s.agenda.tail, busy := false, done := true, err := t.err }

/-- Rule R47, the frame of the five commands: none writes A, B, N, CMD, CTRL or CAP; only XGCD writes X,
Y and SIGNS. -/
def Obligations.CommandsWriteOnlyTheirBanks : Prop :=
  ∀ (i : Instr) (s t : State), exec i s = .next t →
    (t.a = s.a ∧ t.b = s.b ∧ t.n = s.n ∧ t.cmd = s.cmd ∧ t.ie = s.ie ∧ t.cfg = s.cfg ∧
      t.agenda = s.agenda ∧ t.readLog = s.readLog ∧ t.fresh = s.fresh) ∧
    (i ≠ .xgcd → t.x = s.x ∧ t.y = s.y ∧ t.xneg = s.xneg ∧ t.yneg = s.yneg)

/-- Rules R28 and R47: the error code and the results of a command are the same from two states that
agree on W and on the banks the command reads, whatever else they hold. -/
def Obligations.ResultsDependOnlyOnTheBanksRead : Prop :=
  ∀ (i : Instr) (s s' t t' : State), s.cfg.capW = s'.cfg.capW → s.a = s'.a →
    (i = .montmul ∨ i = .modexp ∨ i = .xgcd → s.b = s'.b) → (i ≠ .xgcd → s.n = s'.n) →
    exec i s = .next t → exec i s' = .next t' →
    t.err = t'.err ∧ (t.err = .noError → t.res = t'.res ∧
      (i = .xgcd → t.x = t'.x ∧ t.y = t'.y ∧ t.xneg = t'.xneg ∧ t.yneg = t'.yneg))

/-! ## Laws of the arithmetic, and the reference datapaths -/

/-- The laws (a) to (e) of the Montgomery form, which the spec derives (R66) from rules R64 and R65. -/
def Obligations.MontgomeryFormLaws : Prop :=
  ∀ k n a b : Nat, n % 2 = 1 → a < n → b < n →
    montProd k (montForm k a n) (montForm k b n) n = montForm k (a * b % n) n ∧
    (1 < n → montProd k (montForm k a n) 1 n = a) ∧
    montProd k a (2 ^ k * 2 ^ k % n) n = montForm k a n ∧
    montProd k a b n = montProd k b a n ∧
    montProd k (montForm k 1 n) (montForm k a n) n = montForm k a n

/-- Rule R69: MONTMUL with B = 1 of a Montgomery form gives back the integer it is the form of. -/
def Obligations.MontmulByOneLeavesTheMontgomeryDomain : Prop :=
  ∀ (s : State) (v : Nat), s.Inv → s.opN % 2 = 1 → 1 < s.opN → v < s.opN →
    s.opA = v * 2 ^ s.cfg.bits % s.opN → s.opB = 1 →
    ∃ t, exec .montmul s = .next t ∧ t.err = .noError ∧ t.resVal = v

/-- The reference datapath of R67 and its bounds R68, in the spec's words general knowledge and derived:
the radix-2 loop computes the Montgomery product of rule R64; before every step
its accumulator is below 2n and the largest intermediate value is below 4n; after i steps it is a[i-1:0]
* b divided by 2^i modulo n. -/
def Obligations.RadixTwoLoopComputesTheMontgomeryProduct : Prop :=
  ∀ k n a b : Nat, n % 2 = 1 → n < 2 ^ k → a < n → b < n →
    montRadix2 k a b n = montProd k a b n ∧
    ∀ i, i ≤ k → montAcc a b n i < 2 * n ∧ montAcc a b n i + b + n < 4 * n ∧
      montAcc a b n i * 2 ^ i % n = a % 2 ^ i * b % n

/-- The reference datapath of R75, in the spec's words general knowledge: the square-and-multiply ladder on Montgomery forms computes the power of rule R70. -/
def Obligations.LadderComputesThePower : Prop :=
  ∀ k n a e : Nat, n % 2 = 1 → modexpLadder k a e n = a ^ e % n

/-- The laws (a) to (d) of MODEXP that the spec derives (R76) from rule R70, for exponents of at most k bits (k = K in the command;
powMod is the value MODEXP writes to RES). -/
def Obligations.ModexpLaws : Prop :=
  ∀ k n a e f : Nat, 0 < k → n % 2 = 1 → e < 2 ^ k → f < 2 ^ k →
    powMod k a 1 n = a % n ∧
    (1 < k → powMod k a 2 n = a * a % n) ∧
    powMod k (powMod k a e n) f n = a ^ (e * f) % n ∧
    powMod k a e n = powMod k (a % n) e n

/-- The round trip of the source document, as the spec's derived rule R76 states it: for two different odd primes p and q, d obtained by
MODINV from e and (p-1)*(q-1), and c by MODEXP from m < p*q and e, MODEXP of c and d modulo p*q gives m. -/
def Obligations.RsaRoundTripOnTheBlock : Prop :=
  ∀ (p q : Nat) (s1 t1 s2 t2 s3 : State), p.Prime → q.Prime → p ≠ q → p ≠ 2 → q ≠ 2 →
    s1.Inv → s2.Inv → s3.Inv →
    s1.opN = (p - 1) * (q - 1) → exec .modinv s1 = .next t1 → t1.err = .noError →
    s2.opN = p * q → s2.opB = s1.opA → s2.opA < p * q → exec .modexp s2 = .next t2 →
    s3.opN = p * q → s3.opA = t2.resVal → s3.opB = t1.resVal →
    ∃ t3, exec .modexp s3 = .next t3 ∧ t3.err = .noError ∧ t3.resVal = s2.opA

/-! ## Registers and host accesses -/

/-- Rules R20, R22, R23, R25 and R86: where each field stands in the word the host reads, the number of
each error code, and that every other bit reads 0. -/
def Obligations.RegisterWordsHaveTheirFields : Prop :=
  (∀ s : State,
    s.statusWord[0] = s.busy ∧ s.statusWord[1] = s.done ∧
    (s.statusWord.extractLsb' 4 4).toNat = s.err.code ∧
    s.statusWord.extractLsb' 2 2 = 0 ∧ s.statusWord.extractLsb' 8 24 = 0 ∧
    s.ctrlWord[0] = s.ie ∧ s.ctrlWord.extractLsb' 1 31 = 0 ∧
    s.capWord.extractLsb' 0 16 = s.cfg.capW ∧ s.capWord.extractLsb' 16 16 = 0 ∧
    s.signsWord[0] = s.xneg ∧ s.signsWord[1] = s.yneg ∧ s.signsWord.extractLsb' 2 30 = 0) ∧
  ErrCode.noError.code = 0 ∧ ErrCode.inverseUndefined.code = 1 ∧ ErrCode.modulusZero.code = 2 ∧
  ErrCode.modulusEven.code = 3 ∧ ErrCode.operandRange.code = 4 ∧ ErrCode.illegalCommand.code = 5

/-- Rule R34: word i of bank j is at 0x100 + 4 * (j * W + i), and each multiple of 4 from 0x100 to below
0x100 + 24*W names the word with these numbers. -/
def Obligations.BankOffsetsAndWordsAgree : Prop :=
  (∀ (w : Nat) (q : BankId) (i : Nat), i < w →
    bankOffset w q i = 0x100 + 4 * (bankNumber q * w + i) ∧
    decodeOffset w (0x100 + 4 * (bankNumber q * w + i)) = .bankWord q i) ∧
  (∀ w off : Nat, 0x100 ≤ off → off < 0x100 + 24 * w → off % 4 = 0 →
    ∃ q i, decodeOffset w off = .bankWord q i ∧ i < w ∧
      bankNumber q = (off - 0x100) / 4 / w ∧ i = (off - 0x100) / 4 % w) ∧
  bankNumber .a = 0 ∧ bankNumber .b = 1 ∧ bankNumber .n = 2 ∧ bankNumber .res = 3 ∧
  bankNumber .x = 4 ∧ bankNumber .y = 5

/-- Rule R55, RDW at every offset that is a multiple of 4: the value returned goes to the host's log,
and the block is unchanged (rule R38). That a read at 0x100 + 24*W or above reaches the block, and so gives
0, is the model's choice (log entry 9): rule R37 leaves it to the platform. -/
def Obligations.HostReadReturnsTheRegister : Prop :=
  ∀ (s : State) (off : Nat) (rest : List Turn), off % 4 = 0 →
    s.agenda = .host (.read (s.cfg.base + off) 4) :: rest →
    ∃ v : Word, step s = .next { s with agenda := rest, readLog := v :: s.readLog } ∧
      (off = 0x000 → v = s.cmd) ∧
      (off = 0x004 → v.toNat = s.busy.toNat + 2 * s.done.toNat + 16 * s.err.code) ∧
      (off = 0x008 → v.toNat = s.ie.toNat) ∧
      (off = 0x00C → v.toNat = s.cfg.words) ∧
      (off = 0x010 → v.toNat = s.xneg.toNat + 2 * s.yneg.toNat) ∧
      (∀ q i, i < s.cfg.words → off = 0x100 + 4 * (bankNumber q * s.cfg.words + i) →
        v.toNat = bankVal (s.bank q) / 2 ^ (32 * i) % 2 ^ 32) ∧
      (0x014 ≤ off → off < 0x100 → v = 0) ∧
      (0x100 + 24 * s.cfg.words ≤ off → v = 0)

/-- Rule R56 for a word of an operand bank while the block is not busy: that word becomes v, every other
word of every bank and all else is unchanged. -/
def Obligations.HostWriteSetsOneOperandWord : Prop :=
  ∀ (s : State) (q : BankId) (i : Nat) (v : Word) (rest : List Turn), s.Inv → s.busy = false →
    i < s.cfg.words → (q = .a ∨ q = .b ∨ q = .n) →
    s.agenda =
      .host (.write (s.cfg.base + (0x100 + 4 * (bankNumber q * s.cfg.words + i))) 4 v) :: rest →
    ∃ t, step s = .next t ∧ t = { s with agenda := rest, a := t.a, b := t.b, n := t.n } ∧
      ∀ q' i', (t.bank q')[i']? = if q' = q ∧ i' = i then some v else (s.bank q')[i']?

/-- Rule R56, and the hazards R105 and R106 that the spec derives from it: while a command is in progress a write to CMD or to any word of a bank is
dropped without trace. -/
def Obligations.WritesWhileBusyAreDropped : Prop :=
  ∀ (s : State) (off : Nat) (v : Word) (rest : List Turn), s.busy = true →
    (off = 0x000 ∨ (0x100 ≤ off ∧ off < 0x100 + 24 * s.cfg.words ∧ off % 4 = 0)) →
    s.agenda = .host (.write (s.cfg.base + off) 4 v) :: rest →
    step s = .next { s with agenda := rest }

/-- Rules R33, R37 and R56: a write to CAP, to SIGNS, to a word of RES, X or Y, to a reserved offset, or
to one above the block that reaches it (log entry 9) changes nothing, in every state. -/
def Obligations.WritesToReadOnlyOffsetsAreIgnored : Prop :=
  ∀ (s : State) (off : Nat) (v : Word) (rest : List Turn), off % 4 = 0 →
    (off = 0x00C ∨ off = 0x010 ∨ (0x014 ≤ off ∧ off < 0x100) ∨ 0x100 + 12 * s.cfg.words ≤ off) →
    s.agenda = .host (.write (s.cfg.base + off) 4 v) :: rest →
    step s = .next { s with agenda := rest }

/-- Rule R57, START: a write to CMD while not busy stores all 32 bits, sets BUSY, clears DONE and ERR
and changes nothing else; irq falls. While busy the write changes nothing. -/
def Obligations.StartAcceptsTheCommandWord : Prop :=
  ∀ (s : State) (v : Word) (rest : List Turn),
    s.agenda = .host (.write s.cfg.base 4 v) :: rest →
    (s.busy = false → ∃ t, step s = .next t ∧ t.irq = false ∧
      t = { s with agenda := rest, cmd := v, busy := true, done := false, err := .noError }) ∧
    (s.busy = true → step s = .next { s with agenda := rest })

/-- Rule R58, ACK: a write to STATUS with bit 1 set clears DONE and nothing else, and irq falls; with
bit 1 clear it does nothing. -/
def Obligations.AckClearsDoneAndNothingElse : Prop :=
  ∀ (s : State) (v : Word) (rest : List Turn),
    s.agenda = .host (.write (s.cfg.base + 0x004) 4 v) :: rest →
    (v[1] = true → ∃ t, step s = .next t ∧ t.irq = false ∧
      t = { s with agenda := rest, done := false }) ∧
    (v[1] = false → step s = .next { s with agenda := rest })

/-- Rules R23 and R56: a write to CTRL sets IE to bit 0 of the value, busy or not, and nothing else. -/
def Obligations.CtrlWriteSetsOnlyInterruptEnable : Prop :=
  ∀ (s : State) (v : Word) (rest : List Turn),
    s.agenda = .host (.write (s.cfg.base + 0x008) 4 v) :: rest →
    step s = .next { s with agenda := rest, ie := v[0] }

/-- Rule R35: an access that reaches the block with another width than 32 bits, or at an offset that is
no multiple of 4, is refused by name, for reads and for writes. That the width is checked before the
alignment, so that an access wrong in both is refused for its width, and the two names are the model's
choice (log entry 8). -/
def Obligations.UndefinedAccessesAreRefused : Prop :=
  ∀ (s : State) (off size : Nat) (v : Word) (rest : List Turn),
    (s.agenda = .host (.read (s.cfg.base + off) size) :: rest ∨
      s.agenda = .host (.write (s.cfg.base + off) size v) :: rest) →
    (size ≠ 4 → step s = .refused (.accessWidth size)) ∧
    (size = 4 → off % 4 ≠ 0 → step s = .refused (.accessAlignment off))

/-- The model's own (log entry 7): an access below BASE, outside the register space of rule R32, stops
with a fault. -/
def Obligations.AccessBelowBaseFaults : Prop :=
  ∀ (s : State) (addr size : Nat) (v : Word) (rest : List Turn), addr < s.cfg.base →
    (s.agenda = .host (.read addr size) :: rest ∨
      s.agenda = .host (.write addr size v) :: rest) →
    step s = .fault (.outsideBlock addr)

/-- Rules R51 and R62: the W writes of `WR Q, v` to an operand bank of an idle block make the bank hold v
and change nothing else. -/
def Obligations.WholeBankWriteStoresTheInteger : Prop :=
  ∀ (s : State) (q : BankId) (v : Nat) (rest : List Turn), s.Inv → s.busy = false →
    (q = .a ∨ q = .b ∨ q = .n) → v < 2 ^ s.cfg.bits → s.agenda = wr s.cfg q v ++ rest →
    ∃ t : State, runSteps s.cfg.words s = .next t ∧ bankVal (t.bank q) = v ∧
      (∀ q', q' ≠ q → t.bank q' = s.bank q') ∧
      t = { s with agenda := rest, a := t.a, b := t.b, n := t.n }

/-- Rules R51 and R62: the W reads of `RD Q` return the words of the bank, word 0 first, in any state of
the block, and change nothing else. -/
def Obligations.WholeBankReadReturnsTheWords : Prop :=
  ∀ (s : State) (q : BankId) (rest : List Turn), s.Inv → s.agenda = rd s.cfg q ++ rest →
    runSteps s.cfg.words s =
      .next { s with agenda := rest, readLog := (s.bank q).reverse ++ s.readLog }

/-! ## The interrupt -/

/-- Rule R26: irq is 1 exactly when CTRL.IE = 1 and STATUS.DONE = 1. -/
def Obligations.IrqIsEnableAndDone : Prop :=
  ∀ s : State, s.irq = true ↔ s.ie = true ∧ s.done = true

/-- Rule R94: while irq is 1, the only steps that clear it are ACK, a START, writing 0 to CTRL.IE, and
reset; while it is 0, the only steps that raise it are a completion with IE = 1 and setting IE with DONE
= 1. -/
def Obligations.IrqChangesOnlyWhereTheRuleSays : Prop :=
  ∀ s t : State, s.Inv → step s = .next t →
    (s.irq = true → t.irq = false →
      s.ResetTurn ∨ ∃ (off : Nat) (v : Word) (rest : List Turn),
        s.agenda = .host (.write (s.cfg.base + off) 4 v) :: rest ∧
        (off = 0x000 ∨ (off = 0x004 ∧ v[1] = true) ∨ (off = 0x008 ∧ v[0] = false))) ∧
    (s.irq = false → t.irq = true →
      (s.EngineTurn ∧ s.busy = true ∧ s.ie = true) ∨
      ∃ (v : Word) (rest : List Turn),
        s.agenda = .host (.write (s.cfg.base + 0x008) 4 v) :: rest ∧ v[0] = true ∧ s.done = true)

/-! ## Reset -/

/-- Rule R30: after reset, for every admitted W and BASE, CMD, STATUS, CTRL and SIGNS read 0, irq is 0
and CAP reads W. (The banks' words there are the model's choice, log entry 1: nothing is said of them.) -/
def Obligations.ResetStateHasTheResetValues : Prop :=
  ∀ c : Config, (State.resetWith c).cmd = 0 ∧ (State.resetWith c).statusWord = 0 ∧
    (State.resetWith c).ctrlWord = 0 ∧ (State.resetWith c).signsWord = 0 ∧
    (State.resetWith c).irq = false ∧ (State.resetWith c).capWord.toNat = c.words ∧
    State.reset = State.resetWith Config.resetDefault

/-- Rules R101 and R102: the reset input, also during a command, gives the control state of rule R30:
idle, no completion, DONE and ERR clear, irq 0, CMD and SIGNS 0, IE 0, CAP still W; the banks keep their
width and nothing is said of their contents. -/
def Obligations.ResetInputLeavesTheControlStateOfReset : Prop :=
  ∀ s : State, s.ResetTurn → ∃ t, step s = .next t ∧
    t.busy = false ∧ t.done = false ∧ t.err = .noError ∧ t.irq = false ∧ t.cmd = 0 ∧
    t.xneg = false ∧ t.yneg = false ∧ t.ie = false ∧ t.cfg = s.cfg ∧ t.BanksFit ∧
    t.agenda = s.agenda.tail ∧ t.readLog = s.readLog

/-! ## Rules about the whole machine -/

/-- The invariant holds after reset, for every admitted W and BASE. -/
def Obligations.InvariantHoldsAfterReset : Prop :=
  State.reset.Inv ∧ ∀ c : Config, c.wf = true → (State.resetWith c).Inv

/-- Rules R14 and R19 and the invariants that the spec derives (R31 a and b): every step keeps the invariant: banks K bits wide, BUSY and DONE never
both 1, ERR 0 while busy, a sign bit only on a magnitude other than 0. -/
def Obligations.EveryStepKeepsTheInvariant : Prop :=
  ∀ s t : State, s.Inv → step s = .next t → t.Inv

/-- Rules R6 and R25: no step changes W or BASE. -/
def Obligations.ParametersNeverChange : Prop :=
  ∀ s t : State, step s = .next t → t.cfg = s.cfg

/-- The invariant R31 (e), which the spec derives from rule R56: the operand banks change only by a host write performed while BUSY = 0 (or by reset). -/
def Obligations.OperandsChangeOnlyByAHostWriteWhileIdle : Prop :=
  ∀ s t : State, step s = .next t → (t.a ≠ s.a ∨ t.b ≠ s.b ∨ t.n ≠ s.n) →
    s.ResetTurn ∨ (s.busy = false ∧ ∃ (off : Nat) (v : Word) (rest : List Turn),
      s.agenda = .host (.write (s.cfg.base + off) 4 v) :: rest ∧
      0x100 ≤ off ∧ off < 0x100 + 12 * s.cfg.words)

/-- The invariant R31 (f), which the spec derives from rule R59: the result banks and SIGNS change only in a completion step without error (or by
reset). -/
def Obligations.ResultsChangeOnlyInACompletion : Prop :=
  ∀ s t : State, step s = .next t →
    (t.res ≠ s.res ∨ t.x ≠ s.x ∨ t.y ≠ s.y ∨ t.xneg ≠ s.xneg ∨ t.yneg ≠ s.yneg) →
    s.ResetTurn ∨ (s.EngineTurn ∧ s.busy = true ∧ t.busy = false ∧ t.ResultValid)

/-- Rules R40 (c) and R58: a block with DONE = 1 is not busy, and every step of a block that is not busy,
before an ACK and after it, but a reset leaves RES, X, Y and SIGNS as they are; unless the step is a
START it leaves ERR too, and the block not busy, so that the same holds of the step after it. -/
def Obligations.ResultsStayUntilTheNextStartOrReset : Prop :=
  ∀ s : State, s.Inv →
    (s.done = true → s.busy = false) ∧
    (s.busy = false → ¬s.ResetTurn → ∀ t, step s = .next t →
      t.res = s.res ∧ t.x = s.x ∧ t.y = s.y ∧ t.xneg = s.xneg ∧ t.yneg = s.yneg ∧
      ((t.err = s.err ∧ t.busy = false) ∨ ∃ (v : Word) (rest : List Turn),
        s.agenda = .host (.write s.cfg.base 4 v) :: rest))

/-- Rules R57, R59 and R102: BUSY returns to 0 only by the completion step or by reset, and becomes 1
only by an accepted write to CMD. -/
def Obligations.BusyChangesOnlyByStartCompletionAndReset : Prop :=
  ∀ s t : State, step s = .next t →
    (s.busy = true → t.busy = false → s.ResetTurn ∨ (s.EngineTurn ∧ t.done = true)) ∧
    (s.busy = false → t.busy = true → ∃ (v : Word) (rest : List Turn),
      s.agenda = .host (.write s.cfg.base 4 v) :: rest ∧ t.cmd = v)

/-- Rules R43, R56 and R61: whatever defined accesses the host makes while a command is in progress, the
command completes with the error code and results of the command word and the operands it started with.
The accesses leave the operand banks and CMD as they were; only CTRL.IE and what the host has read can
differ from the completion without them. That the completion is the step right after the accesses listed
is the model's choice (log entry 5: the engine moves when the agenda is empty); rule R61 gives no bound. -/
def Obligations.AcceptedCommandCompletesWhateverTheHostDoes : Prop :=
  ∀ (s : State) (i : Instr), s.Inv → s.busy = true → decode s.cmd = .ok i →
    s.agenda.all (isDefinedHostTurn s.cfg) = true →
    ∃ t u : State, runSteps (s.agenda.length + 1) s = .next t ∧ exec i s = .next u ∧
      t = { u with agenda := [], ie := t.ie, readLog := t.readLog }
end

