-- ==== Sys2Proof/Laws/Arith.lean ====
section
/-! SUPPORT. What the arithmetic of the commands computes: one lemma per function, which the proofs
cite instead of unfolding it. -/

namespace Sys2Proof.Machine

/-! ### Modular exponentiation -/

/-- powMod is the remainder of the exact power, for every exponent of at most k bits (rule R70). -/
theorem powMod_eq {k e : Nat} (a n : Nat) (h : e < 2 ^ k) : powMod k a e n = a ^ e % n := by
  induction k generalizing a e with
  | zero =>
    have : e = 0 := by simpa using h
    simp [powMod, this]
  | succ k ih =>
    have hk : e / 2 < 2 ^ k := by
      rw [Nat.pow_succ] at h
      omega
    have sq : (a * a % n) ^ (e / 2) % n = a ^ (2 * (e / 2)) % n := by
      rw [← Nat.pow_mod, pow_mul, pow_two]
    rw [powMod, ih _ hk, sq]
    split
    · rw [← Nat.mul_mod_mod, Nat.mod_mod, Nat.mul_mod_mod, ← pow_succ', show 2 * (e / 2) + 1 = e by omega]
    · rw [show 2 * (e / 2) = e by omega]

/-! ### The Montgomery kernel -/

/-- Rinv is the inverse of R = 2^k modulo an odd n (rule R64). -/
theorem montRinv_spec (k : Nat) {n : Nat} (hn : n % 2 = 1) : 2 ^ k * montRinv k n % n = 1 % n := by
  have h2 : 2 * ((n + 1) / 2) = n + 1 := by omega
  rw [montRinv, Nat.mul_mod_mod, ← mul_pow, h2, Nat.pow_mod, Nat.add_mod_left, ← Nat.pow_mod, one_pow]

/-- The Montgomery product is below the modulus (rule R64). -/
theorem montProd_lt (k a b : Nat) {n : Nat} (hn : 0 < n) : montProd k a b n < n := Nat.mod_lt _ hn

/-- The property that defines the Montgomery product (rule R64). -/
theorem montProd_spec (k a b : Nat) {n : Nat} (hn : n % 2 = 1) :
    montProd k a b n * 2 ^ k % n = a * b % n := by
  rw [montProd, Nat.mod_mul_mod, mul_assoc, mul_comm (montRinv k n), ← Nat.mul_mod_mod,
    montRinv_spec k hn, Nat.mul_mod_mod, mul_one]

/-- An odd n and R = 2^k have no common factor. -/
theorem coprime_two_pow (k : Nat) {n : Nat} (hn : n % 2 = 1) : Nat.Coprime n (2 ^ k) :=
  Nat.Coprime.pow_right k (Nat.coprime_two_right.mpr (Nat.odd_iff.mpr hn))

/-- Multiplication by R = 2^k can be cancelled modulo an odd n, so the property of rule R64 has one
solution below n. -/
theorem eq_of_mul_two_pow_mod_eq (k : Nat) {n t u : Nat} (hn : n % 2 = 1) (ht : t < n) (hu : u < n)
    (h : t * 2 ^ k % n = u * 2 ^ k % n) : t = u := by
  have := Nat.ModEq.cancel_right_of_coprime (coprime_two_pow k hn) h
  rwa [Nat.ModEq, Nat.mod_eq_of_lt ht, Nat.mod_eq_of_lt hu] at this

/-! ### The extended Euclidean algorithm -/

/-- q*v3 is never above u3, so the third component of a step is the remainder (rule R78 b). -/
theorem tripleStep_c3 (u v : Triple) : (tripleStep u v).c3 = u.c3 % v.c3 := by
  have h := Nat.div_add_mod u.c3 v.c3
  rw [mul_comm] at h
  simp only [tripleStep]
  omega

/-- The linear relation of rule R78 (a) for one triple. -/
def Triple.Lin (a b : Nat) (u : Triple) : Prop := u.c1 * a + u.c2 * b = u.c3

theorem tripleStep_lin {a b : Nat} {u v : Triple} (hu : u.Lin a b) (hv : v.Lin a b) :
    (tripleStep u v).Lin a b := by
  have h : u.c3 / v.c3 * v.c3 ≤ u.c3 := Nat.div_mul_le_self _ _
  simp only [Triple.Lin, tripleStep] at *
  rw [Nat.cast_sub h, ← hu, Nat.cast_mul, ← hv]
  ring

/-- What the loop of rule R77 returns, from triples with the relation of rule R78 (a) and enough fuel. -/
theorem xgcdLoop_spec {a b fuel : Nat} {u v : Triple} (hf : v.c3 < fuel) (hu : u.Lin a b)
    (hv : v.Lin a b) :
    (xgcdLoop fuel u v).Lin a b ∧ (xgcdLoop fuel u v).c3 = Nat.gcd u.c3 v.c3 := by
  induction fuel generalizing u v with
  | zero => omega
  | succ fuel ih =>
    rw [xgcdLoop]
    split
    · rename_i h
      exact ⟨hu, by rw [h, Nat.gcd_zero_right]⟩
    · rename_i h
      have hlt : (tripleStep u v).c3 < fuel := by
        rw [tripleStep_c3]
        have := Nat.mod_lt u.c3 (Nat.pos_of_ne_zero h)
        omega
      obtain ⟨h1, h2⟩ := ih hlt hv (tripleStep_lin hu hv)
      refine ⟨h1, ?_⟩
      rw [h2, tripleStep_c3, Nat.gcd_comm v.c3, ← Nat.gcd_rec, Nat.gcd_comm]

/-- The third component of Xgcd is the gcd (rule R78). -/
theorem xgcd_c3 (a b : Nat) : (xgcd a b).c3 = Nat.gcd a b :=
  (xgcdLoop_spec (a := a) (b := b) (Nat.lt_succ_self b) (by simp [Triple.Lin]) (by simp [Triple.Lin])).2

/-- Xgcd returns Bézout coefficients (rule R78). -/
theorem xgcd_bezout (a b : Nat) : (a : Int) * (xgcd a b).c1 + b * (xgcd a b).c2 = Nat.gcd a b := by
  have h := (xgcdLoop_spec (a := a) (b := b) (fuel := b + 1) (u := ⟨1, 0, a⟩) (v := ⟨0, 1, b⟩)
    (Nat.lt_succ_self b) (by simp [Triple.Lin]) (by simp [Triple.Lin])).1
  rw [← xgcd_c3, mul_comm (a : Int), mul_comm (b : Int)]
  exact h

/-! ### The size of the coefficients (rule R80) -/

/-- What holds of one coefficient p of the u triple and the same one q of the v triple: they have
opposite signs, and their magnitudes stay within the bound of rule R80. -/
def CoeffBound (m : Nat) (p q : Int) (u3 v3 : Nat) : Prop :=
  q.natAbs * u3 + p.natAbs * v3 = m ∧ p * q ≤ 0 ∧ p.natAbs ≤ max 1 m ∧ q.natAbs ≤ max 1 m

/-- The magnitude of p - k*q, when p and q have opposite signs. -/
theorem natAbs_sub_mul {p q : Int} (k : Nat) (h : p * q ≤ 0) :
    (p - k * q).natAbs = p.natAbs + k * q.natAbs := by
  have hk : ((k : Int) * q).natAbs = k * q.natAbs := by rw [Int.natAbs_mul, Int.natAbs_natCast]
  rw [← hk]
  rcases lt_trichotomy q 0 with hq | hq | hq
  · have hp : 0 ≤ p := by nlinarith
    have : (k : Int) * q ≤ 0 := by nlinarith
    omega
  · subst hq
    simp
  · have hp : p ≤ 0 := by nlinarith
    have : 0 ≤ (k : Int) * q := by positivity
    omega

/-- One step of the loop keeps the bound. -/
theorem CoeffBound.step {m : Nat} {p q : Int} {u3 v3 : Nat} (hv : v3 ≠ 0)
    (h : CoeffBound m p q u3 v3) : CoeffBound m q (p - (u3 / v3 : Nat) * q) v3 (u3 % v3) := by
  obtain ⟨hsum, hsign, -, hq⟩ := h
  have habs := natAbs_sub_mul (u3 / v3) hsign
  have hsum' : (p - (u3 / v3 : Nat) * q).natAbs * v3 + q.natAbs * (u3 % v3) = m := by
    rw [habs, ← hsum]
    conv_rhs => rw [← Nat.div_add_mod u3 v3]
    ring
  refine ⟨hsum', ?_, hq, ?_⟩
  · have : (0 : Int) ≤ (u3 / v3 : Nat) * (q * q) := mul_nonneg (Int.natCast_nonneg _) (mul_self_nonneg q)
    nlinarith
  · have : (p - (u3 / v3 : Nat) * q).natAbs ≤ (p - (u3 / v3 : Nat) * q).natAbs * v3 :=
      Nat.le_mul_of_pos_right _ (Nat.pos_of_ne_zero hv)
    omega

theorem xgcdLoop_coeffBound {a b fuel : Nat} {u v : Triple}
    (h1 : CoeffBound b u.c1 v.c1 u.c3 v.c3) (h2 : CoeffBound a u.c2 v.c2 u.c3 v.c3) :
    (xgcdLoop fuel u v).c1.natAbs ≤ max 1 b ∧ (xgcdLoop fuel u v).c2.natAbs ≤ max 1 a := by
  induction fuel generalizing u v with
  | zero => exact ⟨h1.2.2.1, h2.2.2.1⟩
  | succ fuel ih =>
    rw [xgcdLoop]
    split
    · exact ⟨h1.2.2.1, h2.2.2.1⟩
    · rename_i hv
      apply ih
      · rw [tripleStep_c3]
        exact h1.step hv
      · rw [tripleStep_c3]
        exact h2.step hv

/-- The coefficients Xgcd returns fit (rule R80). -/
theorem xgcd_coeff_le (a b : Nat) :
    (xgcd a b).c1.natAbs ≤ max 1 b ∧ (xgcd a b).c2.natAbs ≤ max 1 a :=
  xgcdLoop_coeffBound (by simp [CoeffBound]) (by simp [CoeffBound])

end Sys2Proof.Machine
end

