-- ==== Sys2Proof/Laws/State.lean ====
section
/-! SUPPORT. One lemma per field per update of the state: no later proof unfolds a record update. -/

namespace Sys2Proof.Machine

/-! ### finish -/

@[simp] theorem State.finish_cfg (s : State) (e : ErrCode) : (s.finish e).cfg = s.cfg := rfl
@[simp] theorem State.finish_a (s : State) (e : ErrCode) : (s.finish e).a = s.a := rfl
@[simp] theorem State.finish_b (s : State) (e : ErrCode) : (s.finish e).b = s.b := rfl
@[simp] theorem State.finish_n (s : State) (e : ErrCode) : (s.finish e).n = s.n := rfl
@[simp] theorem State.finish_res (s : State) (e : ErrCode) : (s.finish e).res = s.res := rfl
@[simp] theorem State.finish_x (s : State) (e : ErrCode) : (s.finish e).x = s.x := rfl
@[simp] theorem State.finish_y (s : State) (e : ErrCode) : (s.finish e).y = s.y := rfl
@[simp] theorem State.finish_xneg (s : State) (e : ErrCode) : (s.finish e).xneg = s.xneg := rfl
@[simp] theorem State.finish_yneg (s : State) (e : ErrCode) : (s.finish e).yneg = s.yneg := rfl
@[simp] theorem State.finish_cmd (s : State) (e : ErrCode) : (s.finish e).cmd = s.cmd := rfl
@[simp] theorem State.finish_busy (s : State) (e : ErrCode) : (s.finish e).busy = false := rfl
@[simp] theorem State.finish_done (s : State) (e : ErrCode) : (s.finish e).done = true := rfl
@[simp] theorem State.finish_err (s : State) (e : ErrCode) : (s.finish e).err = e := rfl
@[simp] theorem State.finish_ie (s : State) (e : ErrCode) : (s.finish e).ie = s.ie := rfl
@[simp] theorem State.finish_agenda (s : State) (e : ErrCode) : (s.finish e).agenda = s.agenda := rfl
@[simp] theorem State.finish_readLog (s : State) (e : ErrCode) : (s.finish e).readLog = s.readLog := rfl
@[simp] theorem State.finish_fresh (s : State) (e : ErrCode) : (s.finish e).fresh = s.fresh := rfl

/-! ### raiseErr -/

@[simp] theorem State.raiseErr_cfg (s : State) (e : ErrCode) : (s.raiseErr e).cfg = s.cfg := rfl
@[simp] theorem State.raiseErr_a (s : State) (e : ErrCode) : (s.raiseErr e).a = s.a := rfl
@[simp] theorem State.raiseErr_b (s : State) (e : ErrCode) : (s.raiseErr e).b = s.b := rfl
@[simp] theorem State.raiseErr_n (s : State) (e : ErrCode) : (s.raiseErr e).n = s.n := rfl
@[simp] theorem State.raiseErr_res (s : State) (e : ErrCode) : (s.raiseErr e).res = s.res := rfl
@[simp] theorem State.raiseErr_x (s : State) (e : ErrCode) : (s.raiseErr e).x = s.x := rfl
@[simp] theorem State.raiseErr_y (s : State) (e : ErrCode) : (s.raiseErr e).y = s.y := rfl
@[simp] theorem State.raiseErr_xneg (s : State) (e : ErrCode) : (s.raiseErr e).xneg = s.xneg := rfl
@[simp] theorem State.raiseErr_yneg (s : State) (e : ErrCode) : (s.raiseErr e).yneg = s.yneg := rfl
@[simp] theorem State.raiseErr_cmd (s : State) (e : ErrCode) : (s.raiseErr e).cmd = s.cmd := rfl
@[simp] theorem State.raiseErr_busy (s : State) (e : ErrCode) : (s.raiseErr e).busy = false := rfl
@[simp] theorem State.raiseErr_done (s : State) (e : ErrCode) : (s.raiseErr e).done = true := rfl
@[simp] theorem State.raiseErr_err (s : State) (e : ErrCode) : (s.raiseErr e).err = e := rfl
@[simp] theorem State.raiseErr_ie (s : State) (e : ErrCode) : (s.raiseErr e).ie = s.ie := rfl
@[simp] theorem State.raiseErr_agenda (s : State) (e : ErrCode) : (s.raiseErr e).agenda = s.agenda := rfl
@[simp] theorem State.raiseErr_readLog (s : State) (e : ErrCode) : (s.raiseErr e).readLog = s.readLog := rfl
@[simp] theorem State.raiseErr_fresh (s : State) (e : ErrCode) : (s.raiseErr e).fresh = s.fresh := rfl

/-! ### clearDone -/

@[simp] theorem State.clearDone_cfg (s : State) : s.clearDone.cfg = s.cfg := rfl
@[simp] theorem State.clearDone_a (s : State) : s.clearDone.a = s.a := rfl
@[simp] theorem State.clearDone_b (s : State) : s.clearDone.b = s.b := rfl
@[simp] theorem State.clearDone_n (s : State) : s.clearDone.n = s.n := rfl
@[simp] theorem State.clearDone_res (s : State) : s.clearDone.res = s.res := rfl
@[simp] theorem State.clearDone_x (s : State) : s.clearDone.x = s.x := rfl
@[simp] theorem State.clearDone_y (s : State) : s.clearDone.y = s.y := rfl
@[simp] theorem State.clearDone_xneg (s : State) : s.clearDone.xneg = s.xneg := rfl
@[simp] theorem State.clearDone_yneg (s : State) : s.clearDone.yneg = s.yneg := rfl
@[simp] theorem State.clearDone_cmd (s : State) : s.clearDone.cmd = s.cmd := rfl
@[simp] theorem State.clearDone_busy (s : State) : s.clearDone.busy = s.busy := rfl
@[simp] theorem State.clearDone_done (s : State) : s.clearDone.done = false := rfl
@[simp] theorem State.clearDone_err (s : State) : s.clearDone.err = s.err := rfl
@[simp] theorem State.clearDone_ie (s : State) : s.clearDone.ie = s.ie := rfl
@[simp] theorem State.clearDone_agenda (s : State) : s.clearDone.agenda = s.agenda := rfl
@[simp] theorem State.clearDone_readLog (s : State) : s.clearDone.readLog = s.readLog := rfl
@[simp] theorem State.clearDone_fresh (s : State) : s.clearDone.fresh = s.fresh := rfl

/-! ### setIe -/

@[simp] theorem State.setIe_cfg (s : State) (v : Bool) : (s.setIe v).cfg = s.cfg := rfl
@[simp] theorem State.setIe_a (s : State) (v : Bool) : (s.setIe v).a = s.a := rfl
@[simp] theorem State.setIe_b (s : State) (v : Bool) : (s.setIe v).b = s.b := rfl
@[simp] theorem State.setIe_n (s : State) (v : Bool) : (s.setIe v).n = s.n := rfl
@[simp] theorem State.setIe_res (s : State) (v : Bool) : (s.setIe v).res = s.res := rfl
@[simp] theorem State.setIe_x (s : State) (v : Bool) : (s.setIe v).x = s.x := rfl
@[simp] theorem State.setIe_y (s : State) (v : Bool) : (s.setIe v).y = s.y := rfl
@[simp] theorem State.setIe_xneg (s : State) (v : Bool) : (s.setIe v).xneg = s.xneg := rfl
@[simp] theorem State.setIe_yneg (s : State) (v : Bool) : (s.setIe v).yneg = s.yneg := rfl
@[simp] theorem State.setIe_cmd (s : State) (v : Bool) : (s.setIe v).cmd = s.cmd := rfl
@[simp] theorem State.setIe_busy (s : State) (v : Bool) : (s.setIe v).busy = s.busy := rfl
@[simp] theorem State.setIe_done (s : State) (v : Bool) : (s.setIe v).done = s.done := rfl
@[simp] theorem State.setIe_err (s : State) (v : Bool) : (s.setIe v).err = s.err := rfl
@[simp] theorem State.setIe_ie (s : State) (v : Bool) : (s.setIe v).ie = v := rfl
@[simp] theorem State.setIe_agenda (s : State) (v : Bool) : (s.setIe v).agenda = s.agenda := rfl
@[simp] theorem State.setIe_readLog (s : State) (v : Bool) : (s.setIe v).readLog = s.readLog := rfl
@[simp] theorem State.setIe_fresh (s : State) (v : Bool) : (s.setIe v).fresh = s.fresh := rfl

/-! ### start -/

@[simp] theorem State.start_cfg (s : State) (v : Word) : (s.start v).cfg = s.cfg := rfl
@[simp] theorem State.start_a (s : State) (v : Word) : (s.start v).a = s.a := rfl
@[simp] theorem State.start_b (s : State) (v : Word) : (s.start v).b = s.b := rfl
@[simp] theorem State.start_n (s : State) (v : Word) : (s.start v).n = s.n := rfl
@[simp] theorem State.start_res (s : State) (v : Word) : (s.start v).res = s.res := rfl
@[simp] theorem State.start_x (s : State) (v : Word) : (s.start v).x = s.x := rfl
@[simp] theorem State.start_y (s : State) (v : Word) : (s.start v).y = s.y := rfl
@[simp] theorem State.start_xneg (s : State) (v : Word) : (s.start v).xneg = s.xneg := rfl
@[simp] theorem State.start_yneg (s : State) (v : Word) : (s.start v).yneg = s.yneg := rfl
@[simp] theorem State.start_cmd (s : State) (v : Word) : (s.start v).cmd = v := rfl
@[simp] theorem State.start_busy (s : State) (v : Word) : (s.start v).busy = true := rfl
@[simp] theorem State.start_done (s : State) (v : Word) : (s.start v).done = false := rfl
@[simp] theorem State.start_err (s : State) (v : Word) : (s.start v).err = .noError := rfl
@[simp] theorem State.start_ie (s : State) (v : Word) : (s.start v).ie = s.ie := rfl
@[simp] theorem State.start_agenda (s : State) (v : Word) : (s.start v).agenda = s.agenda := rfl
@[simp] theorem State.start_readLog (s : State) (v : Word) : (s.start v).readLog = s.readLog := rfl
@[simp] theorem State.start_fresh (s : State) (v : Word) : (s.start v).fresh = s.fresh := rfl

/-! ### putRes -/

@[simp] theorem State.putRes_cfg (s : State) (v : Nat) : (s.putRes v).cfg = s.cfg := rfl
@[simp] theorem State.putRes_a (s : State) (v : Nat) : (s.putRes v).a = s.a := rfl
@[simp] theorem State.putRes_b (s : State) (v : Nat) : (s.putRes v).b = s.b := rfl
@[simp] theorem State.putRes_n (s : State) (v : Nat) : (s.putRes v).n = s.n := rfl
@[simp] theorem State.putRes_res (s : State) (v : Nat) : (s.putRes v).res = bankOfNat s.cfg.words v := rfl
@[simp] theorem State.putRes_x (s : State) (v : Nat) : (s.putRes v).x = s.x := rfl
@[simp] theorem State.putRes_y (s : State) (v : Nat) : (s.putRes v).y = s.y := rfl
@[simp] theorem State.putRes_xneg (s : State) (v : Nat) : (s.putRes v).xneg = s.xneg := rfl
@[simp] theorem State.putRes_yneg (s : State) (v : Nat) : (s.putRes v).yneg = s.yneg := rfl
@[simp] theorem State.putRes_cmd (s : State) (v : Nat) : (s.putRes v).cmd = s.cmd := rfl
@[simp] theorem State.putRes_busy (s : State) (v : Nat) : (s.putRes v).busy = s.busy := rfl
@[simp] theorem State.putRes_done (s : State) (v : Nat) : (s.putRes v).done = s.done := rfl
@[simp] theorem State.putRes_err (s : State) (v : Nat) : (s.putRes v).err = s.err := rfl
@[simp] theorem State.putRes_ie (s : State) (v : Nat) : (s.putRes v).ie = s.ie := rfl
@[simp] theorem State.putRes_agenda (s : State) (v : Nat) : (s.putRes v).agenda = s.agenda := rfl
@[simp] theorem State.putRes_readLog (s : State) (v : Nat) : (s.putRes v).readLog = s.readLog := rfl
@[simp] theorem State.putRes_fresh (s : State) (v : Nat) : (s.putRes v).fresh = s.fresh := rfl

/-! ### putCoeffs -/

@[simp] theorem State.putCoeffs_cfg (s : State) (p q : Int) : (s.putCoeffs p q).cfg = s.cfg := rfl
@[simp] theorem State.putCoeffs_a (s : State) (p q : Int) : (s.putCoeffs p q).a = s.a := rfl
@[simp] theorem State.putCoeffs_b (s : State) (p q : Int) : (s.putCoeffs p q).b = s.b := rfl
@[simp] theorem State.putCoeffs_n (s : State) (p q : Int) : (s.putCoeffs p q).n = s.n := rfl
@[simp] theorem State.putCoeffs_res (s : State) (p q : Int) : (s.putCoeffs p q).res = s.res := rfl
@[simp] theorem State.putCoeffs_x (s : State) (p q : Int) : (s.putCoeffs p q).x = bankOfNat s.cfg.words p.natAbs := rfl
@[simp] theorem State.putCoeffs_y (s : State) (p q : Int) : (s.putCoeffs p q).y = bankOfNat s.cfg.words q.natAbs := rfl
@[simp] theorem State.putCoeffs_xneg (s : State) (p q : Int) : (s.putCoeffs p q).xneg = decide (p < 0) := rfl
@[simp] theorem State.putCoeffs_yneg (s : State) (p q : Int) : (s.putCoeffs p q).yneg = decide (q < 0) := rfl
@[simp] theorem State.putCoeffs_cmd (s : State) (p q : Int) : (s.putCoeffs p q).cmd = s.cmd := rfl
@[simp] theorem State.putCoeffs_busy (s : State) (p q : Int) : (s.putCoeffs p q).busy = s.busy := rfl
@[simp] theorem State.putCoeffs_done (s : State) (p q : Int) : (s.putCoeffs p q).done = s.done := rfl
@[simp] theorem State.putCoeffs_err (s : State) (p q : Int) : (s.putCoeffs p q).err = s.err := rfl
@[simp] theorem State.putCoeffs_ie (s : State) (p q : Int) : (s.putCoeffs p q).ie = s.ie := rfl
@[simp] theorem State.putCoeffs_agenda (s : State) (p q : Int) : (s.putCoeffs p q).agenda = s.agenda := rfl
@[simp] theorem State.putCoeffs_readLog (s : State) (p q : Int) : (s.putCoeffs p q).readLog = s.readLog := rfl
@[simp] theorem State.putCoeffs_fresh (s : State) (p q : Int) : (s.putCoeffs p q).fresh = s.fresh := rfl

/-! ### logRead -/

@[simp] theorem State.logRead_cfg (s : State) (v : Word) : (s.logRead v).cfg = s.cfg := rfl
@[simp] theorem State.logRead_a (s : State) (v : Word) : (s.logRead v).a = s.a := rfl
@[simp] theorem State.logRead_b (s : State) (v : Word) : (s.logRead v).b = s.b := rfl
@[simp] theorem State.logRead_n (s : State) (v : Word) : (s.logRead v).n = s.n := rfl
@[simp] theorem State.logRead_res (s : State) (v : Word) : (s.logRead v).res = s.res := rfl
@[simp] theorem State.logRead_x (s : State) (v : Word) : (s.logRead v).x = s.x := rfl
@[simp] theorem State.logRead_y (s : State) (v : Word) : (s.logRead v).y = s.y := rfl
@[simp] theorem State.logRead_xneg (s : State) (v : Word) : (s.logRead v).xneg = s.xneg := rfl
@[simp] theorem State.logRead_yneg (s : State) (v : Word) : (s.logRead v).yneg = s.yneg := rfl
@[simp] theorem State.logRead_cmd (s : State) (v : Word) : (s.logRead v).cmd = s.cmd := rfl
@[simp] theorem State.logRead_busy (s : State) (v : Word) : (s.logRead v).busy = s.busy := rfl
@[simp] theorem State.logRead_done (s : State) (v : Word) : (s.logRead v).done = s.done := rfl
@[simp] theorem State.logRead_err (s : State) (v : Word) : (s.logRead v).err = s.err := rfl
@[simp] theorem State.logRead_ie (s : State) (v : Word) : (s.logRead v).ie = s.ie := rfl
@[simp] theorem State.logRead_agenda (s : State) (v : Word) : (s.logRead v).agenda = s.agenda := rfl
@[simp] theorem State.logRead_readLog (s : State) (v : Word) : (s.logRead v).readLog = v :: s.readLog := rfl
@[simp] theorem State.logRead_fresh (s : State) (v : Word) : (s.logRead v).fresh = s.fresh := rfl

/-! ### popTurn -/

@[simp] theorem State.popTurn_cfg (s : State) : s.popTurn.cfg = s.cfg := rfl
@[simp] theorem State.popTurn_a (s : State) : s.popTurn.a = s.a := rfl
@[simp] theorem State.popTurn_b (s : State) : s.popTurn.b = s.b := rfl
@[simp] theorem State.popTurn_n (s : State) : s.popTurn.n = s.n := rfl
@[simp] theorem State.popTurn_res (s : State) : s.popTurn.res = s.res := rfl
@[simp] theorem State.popTurn_x (s : State) : s.popTurn.x = s.x := rfl
@[simp] theorem State.popTurn_y (s : State) : s.popTurn.y = s.y := rfl
@[simp] theorem State.popTurn_xneg (s : State) : s.popTurn.xneg = s.xneg := rfl
@[simp] theorem State.popTurn_yneg (s : State) : s.popTurn.yneg = s.yneg := rfl
@[simp] theorem State.popTurn_cmd (s : State) : s.popTurn.cmd = s.cmd := rfl
@[simp] theorem State.popTurn_busy (s : State) : s.popTurn.busy = s.busy := rfl
@[simp] theorem State.popTurn_done (s : State) : s.popTurn.done = s.done := rfl
@[simp] theorem State.popTurn_err (s : State) : s.popTurn.err = s.err := rfl
@[simp] theorem State.popTurn_ie (s : State) : s.popTurn.ie = s.ie := rfl
@[simp] theorem State.popTurn_agenda (s : State) : s.popTurn.agenda = s.agenda.tail := rfl
@[simp] theorem State.popTurn_readLog (s : State) : s.popTurn.readLog = s.readLog := rfl
@[simp] theorem State.popTurn_fresh (s : State) : s.popTurn.fresh = s.fresh := rfl

/-! ### resetInput -/

@[simp] theorem State.resetInput_cfg (s : State) : s.resetInput.cfg = s.cfg := rfl
@[simp] theorem State.resetInput_a (s : State) : s.resetInput.a = freeBank s.cfg.words s.fresh 0 := rfl
@[simp] theorem State.resetInput_b (s : State) : s.resetInput.b = freeBank s.cfg.words s.fresh 1 := rfl
@[simp] theorem State.resetInput_n (s : State) : s.resetInput.n = freeBank s.cfg.words s.fresh 2 := rfl
@[simp] theorem State.resetInput_res (s : State) : s.resetInput.res = freeBank s.cfg.words s.fresh 3 := rfl
@[simp] theorem State.resetInput_x (s : State) : s.resetInput.x = freeBank s.cfg.words s.fresh 4 := rfl
@[simp] theorem State.resetInput_y (s : State) : s.resetInput.y = freeBank s.cfg.words s.fresh 5 := rfl
@[simp] theorem State.resetInput_xneg (s : State) : s.resetInput.xneg = false := rfl
@[simp] theorem State.resetInput_yneg (s : State) : s.resetInput.yneg = false := rfl
@[simp] theorem State.resetInput_cmd (s : State) : s.resetInput.cmd = 0 := rfl
@[simp] theorem State.resetInput_busy (s : State) : s.resetInput.busy = false := rfl
@[simp] theorem State.resetInput_done (s : State) : s.resetInput.done = false := rfl
@[simp] theorem State.resetInput_err (s : State) : s.resetInput.err = .noError := rfl
@[simp] theorem State.resetInput_ie (s : State) : s.resetInput.ie = false := rfl
@[simp] theorem State.resetInput_agenda (s : State) : s.resetInput.agenda = s.agenda := rfl
@[simp] theorem State.resetInput_readLog (s : State) : s.resetInput.readLog = s.readLog := rfl
@[simp] theorem State.resetInput_fresh (s : State) : s.resetInput.fresh = s.fresh + 1 := rfl

/-! ### setBank -/

@[simp] theorem State.setBank_cfg (s : State) (q : BankId) (v : Bank) : (s.setBank q v).cfg = s.cfg := by cases q <;> rfl
@[simp] theorem State.setBank_a (s : State) (q : BankId) (v : Bank) : (s.setBank q v).a = if q = .a then v else s.a := by cases q <;> rfl
@[simp] theorem State.setBank_b (s : State) (q : BankId) (v : Bank) : (s.setBank q v).b = if q = .b then v else s.b := by cases q <;> rfl
@[simp] theorem State.setBank_n (s : State) (q : BankId) (v : Bank) : (s.setBank q v).n = if q = .n then v else s.n := by cases q <;> rfl
@[simp] theorem State.setBank_res (s : State) (q : BankId) (v : Bank) : (s.setBank q v).res = if q = .res then v else s.res := by cases q <;> rfl
@[simp] theorem State.setBank_x (s : State) (q : BankId) (v : Bank) : (s.setBank q v).x = if q = .x then v else s.x := by cases q <;> rfl
@[simp] theorem State.setBank_y (s : State) (q : BankId) (v : Bank) : (s.setBank q v).y = if q = .y then v else s.y := by cases q <;> rfl
@[simp] theorem State.setBank_xneg (s : State) (q : BankId) (v : Bank) : (s.setBank q v).xneg = s.xneg := by cases q <;> rfl
@[simp] theorem State.setBank_yneg (s : State) (q : BankId) (v : Bank) : (s.setBank q v).yneg = s.yneg := by cases q <;> rfl
@[simp] theorem State.setBank_cmd (s : State) (q : BankId) (v : Bank) : (s.setBank q v).cmd = s.cmd := by cases q <;> rfl
@[simp] theorem State.setBank_busy (s : State) (q : BankId) (v : Bank) : (s.setBank q v).busy = s.busy := by cases q <;> rfl
@[simp] theorem State.setBank_done (s : State) (q : BankId) (v : Bank) : (s.setBank q v).done = s.done := by cases q <;> rfl
@[simp] theorem State.setBank_err (s : State) (q : BankId) (v : Bank) : (s.setBank q v).err = s.err := by cases q <;> rfl
@[simp] theorem State.setBank_ie (s : State) (q : BankId) (v : Bank) : (s.setBank q v).ie = s.ie := by cases q <;> rfl
@[simp] theorem State.setBank_agenda (s : State) (q : BankId) (v : Bank) : (s.setBank q v).agenda = s.agenda := by cases q <;> rfl
@[simp] theorem State.setBank_readLog (s : State) (q : BankId) (v : Bank) : (s.setBank q v).readLog = s.readLog := by cases q <;> rfl
@[simp] theorem State.setBank_fresh (s : State) (q : BankId) (v : Bank) : (s.setBank q v).fresh = s.fresh := by cases q <;> rfl

/-- Reading a bank after a bank was replaced. -/
@[simp] theorem State.bank_setBank (s : State) (q q' : BankId) (v : Bank) :
    (s.setBank q v).bank q' = if q' = q then v else s.bank q' := by
  cases q <;> cases q' <;> rfl

/-- Replacing a bank by its own words changes nothing. -/
@[simp] theorem State.setBank_self (s : State) (q : BankId) : s.setBank q (s.bank q) = s := by
  cases q <;> rfl

end Sys2Proof.Machine
end

