-- ==== Sys2Proof/Laws/Banks.lean ====
section
/-! SUPPORT. Banks as integers: width, range, and going from an integer to its words and back. -/

namespace Sys2Proof.Machine

@[simp] theorem bankOfNat_length (w v : Nat) : (bankOfNat w v).length = w := by
  induction w generalizing v with
  | zero => rfl
  | succ w ih => simp [bankOfNat, ih]

/-- A bank of w words holds an integer in [0, 2^(32*w)) (rule R14). -/
theorem bankVal_lt (b : Bank) : bankVal b < 2 ^ (32 * b.length) := by
  induction b with
  | nil => simp [bankVal]
  | cons w ws ih =>
    have hw := w.isLt
    have e : 2 ^ (32 * (w :: ws).length) = 2 ^ 32 * 2 ^ (32 * ws.length) := by
      rw [← Nat.pow_add]
      congr 1
      simp only [List.length_cons]
      omega
    rw [e, bankVal]
    omega

/-- Writing an integer keeps its low 32*w bits. -/
theorem bankVal_bankOfNat_mod (w v : Nat) : bankVal (bankOfNat w v) = v % 2 ^ (32 * w) := by
  induction w generalizing v with
  | zero => simp [bankOfNat, bankVal, Nat.mod_one]
  | succ w ih =>
    have e : 2 ^ (32 * (w + 1)) = 2 ^ 32 * 2 ^ (32 * w) := by
      rw [← Nat.pow_add]
      congr 1
      omega
    rw [e, Nat.mod_mul, bankOfNat, bankVal, ih, BitVec.toNat_ofNat]

/-- An integer that fits in K bits is held exactly. -/
theorem bankVal_bankOfNat {w v : Nat} (h : v < 2 ^ (32 * w)) : bankVal (bankOfNat w v) = v := by
  rw [bankVal_bankOfNat_mod, Nat.mod_eq_of_lt h]

/-- The words of a bank's value are the bank's words. -/
theorem bankOfNat_bankVal (b : Bank) : bankOfNat b.length (bankVal b) = b := by
  induction b with
  | nil => rfl
  | cons w ws ih =>
    have hw := w.isLt
    have e : (w.toNat + 2 ^ 32 * bankVal ws) / 2 ^ 32 = bankVal ws := by omega
    rw [List.length_cons, bankOfNat, bankVal, e, ih]
    congr 1
    apply BitVec.eq_of_toNat_eq
    rw [BitVec.toNat_ofNat]
    omega

/-- Two banks of one width that hold one integer have the same words. -/
theorem bank_ext_of_val {b b' : Bank} (hl : b.length = b'.length) (hv : bankVal b = bankVal b') :
    b = b' := by
  rw [← bankOfNat_bankVal b, ← bankOfNat_bankVal b', hl, hv]

/-- Word i of a bank is bits 32*i+31 down to 32*i of its value (rule R9). -/
theorem getD_toNat (b : Bank) (i : Nat) :
    (b.getD i 0).toNat = bankVal b / 2 ^ (32 * i) % 2 ^ 32 := by
  induction b generalizing i with
  | nil => simp [bankVal]
  | cons w ws ih =>
    have hw := w.isLt
    cases i with
    | zero => simp [bankVal]; omega
    | succ i =>
      have e : 2 ^ (32 * (i + 1)) = 2 ^ 32 * 2 ^ (32 * i) := by
        rw [← Nat.pow_add]
        congr 1
        omega
      have d : (w.toNat + 2 ^ 32 * bankVal ws) / 2 ^ 32 = bankVal ws := by omega
      rw [List.getD_cons_succ, ih, bankVal, e, ← Nat.div_div_eq_div_mul, d]

@[simp] theorem freeBank_length (w k j : Nat) : (freeBank w k j).length = w := by simp [freeBank]

/-- K = 32 * W. -/
theorem Config.bits_eq (c : Config) : c.bits = 32 * c.words := rfl

end Sys2Proof.Machine
end

