-- ==== Sys2Proof/Laws/Ops.lean ====
section
/-! SUPPORT. What each shared operation can do, said once: the proofs about steps cite these and do
not unfold the operations. -/

namespace Sys2Proof.Machine

/-! ### Completions -/

/-- The outcome of a legal command as a function of W and the operand banks (rule R60). -/
def outcomeOf (i : Instr) (s : State) : CmdOutcome :=
  match i with
  | .montmul => cmdMontmul s.cfg.bits s.opA s.opB s.opN
  | .tomont => cmdTomont s.cfg.bits s.opA s.opN
  | .modexp => cmdModexp s.cfg.bits s.opA s.opB s.opN
  | .modinv => cmdModinv s.opA s.opN
  | .xgcd => cmdXgcd s.opA s.opB

/-- Every legal command completes, in the completion step of its outcome (rules R59 and R60). -/
theorem exec_eq (i : Instr) (s : State) : exec i s = .next (s.complete (outcomeOf i s)) := by
  cases i <;> rfl

/-- What an error completion is (rule R92). -/
theorem complete_err (s : State) (e : ErrCode) :
    s.complete (.err e) = { s with busy := false, done := true, err := e } := rfl

/-- What a completion without coefficients is (rule R59). -/
theorem complete_res (s : State) (v : Nat) :
    s.complete (.ok { res := v, coeffs := none }) =
      { s with res := bankOfNat s.cfg.words v, busy := false, done := true, err := .noError } := rfl

/-- What the completion of XGCD is (rules R59 and R81). -/
theorem complete_coeffs (s : State) (v : Nat) (x y : Int) :
    s.complete (.ok { res := v, coeffs := some (x, y) }) =
      { s with
        res := bankOfNat s.cfg.words v
        x := bankOfNat s.cfg.words x.natAbs
        y := bankOfNat s.cfg.words y.natAbs
        xneg := decide (x < 0)
        yneg := decide (y < 0)
        busy := false, done := true, err := .noError } := rfl

/-- A completion changes the result banks, SIGNS and STATUS, and nothing else (rules R31 e and R59). -/
theorem complete_frame (s : State) (o : CmdOutcome) :
    s.complete o =
      { s with
        res := (s.complete o).res, x := (s.complete o).x, y := (s.complete o).y
        xneg := (s.complete o).xneg, yneg := (s.complete o).yneg
        busy := false, done := true, err := (s.complete o).err } := by
  rcases o with ⟨v, _ | ⟨x, y⟩⟩ | e <;> rfl

/-- The outcome has coefficients only for XGCD (rule R47). -/
theorem outcomeOf_coeffs {i : Instr} {s : State} {w : Writes} (h : outcomeOf i s = .ok w)
    (hi : i ≠ .xgcd) : w.coeffs = none := by
  cases i with
  | montmul => simp only [outcomeOf, cmdMontmul] at h; split_ifs at h; cases h; rfl
  | tomont => simp only [outcomeOf, cmdTomont] at h; split_ifs at h; cases h; rfl
  | modexp => simp only [outcomeOf, cmdModexp] at h; split_ifs at h; cases h; rfl
  | modinv => simp only [outcomeOf, cmdModinv] at h; split_ifs at h; cases h; rfl
  | xgcd => exact absurd rfl hi

/-! ### Host accesses -/

/-- When an access reaches a register, and which (rules R35 and R54). -/
theorem locate_next_iff {c : Config} {addr size : Nat} {r : Reg} :
    locate c addr size = .next r ↔
      accessWf c addr size = true ∧ r = decodeOffset c.words (addr - c.base) := by
  simp only [locate, accessWf, Bool.and_eq_true, decide_eq_true_eq]
  split_ifs with h1 h2 h3
  · simp; omega
  · simp; omega
  · simp; omega
  · simp only [Host.Outcome.next.injEq]
    constructor
    · intro h
      exact ⟨⟨⟨by omega, by omega⟩, by omega⟩, h.symm⟩
    · intro h
      exact h.2.symm

/-- What a host read does when it gives a next state (rule R55). -/
theorem execRead_next_iff {addr size : Nat} {s t : State} :
    execRead addr size s = .next t ↔
      accessWf s.cfg addr size = true ∧
        t = s.logRead (s.readReg (decodeOffset s.cfg.words (addr - s.cfg.base))) := by
  simp only [execRead]
  cases h : locate s.cfg addr size with
  | next r =>
    obtain ⟨h1, rfl⟩ := locate_next_iff.mp h
    simp [h1, eq_comm]
  | fault e =>
    simp only [reduceCtorEq, false_iff, not_and]
    intro hw
    rw [locate_next_iff.mpr ⟨hw, rfl⟩] at h
    cases h
  | refused e =>
    simp only [reduceCtorEq, false_iff, not_and]
    intro hw
    rw [locate_next_iff.mpr ⟨hw, rfl⟩] at h
    cases h

/-- What a host write does when it gives a next state (rule R56). -/
theorem execWrite_next_iff {addr size : Nat} {v : Word} {s t : State} :
    execWrite addr size v s = .next t ↔
      accessWf s.cfg addr size = true ∧
        t = s.writeReg (decodeOffset s.cfg.words (addr - s.cfg.base)) v := by
  simp only [execWrite]
  cases h : locate s.cfg addr size with
  | next r =>
    obtain ⟨h1, rfl⟩ := locate_next_iff.mp h
    simp [h1, eq_comm]
  | fault e =>
    simp only [reduceCtorEq, false_iff, not_and]
    intro hw
    rw [locate_next_iff.mpr ⟨hw, rfl⟩] at h
    cases h
  | refused e =>
    simp only [reduceCtorEq, false_iff, not_and]
    intro hw
    rw [locate_next_iff.mpr ⟨hw, rfl⟩] at h
    cases h

/-- Everything a host write can do to the block (rule R56). -/
theorem writeReg_cases (s : State) (r : Reg) (v : Word) :
    s.writeReg r v = s ∨
      (r = .cmd ∧ s.busy = false ∧ s.writeReg r v = s.start v) ∨
      (r = .status ∧ v[1] = true ∧ s.writeReg r v = s.clearDone) ∨
      (r = .ctrl ∧ s.writeReg r v = s.setIe (v[0])) ∨
      (∃ q i, r = .bankWord q i ∧ isOperandBank q = true ∧ s.busy = false ∧
        s.writeReg r v = s.setBank q ((s.bank q).set i v)) := by
  cases r with
  | cmd => cases h : s.busy <;> simp [State.writeReg, h]
  | status => cases h : v[1] <;> simp [State.writeReg, h]
  | ctrl => simp [State.writeReg]
  | cap => simp [State.writeReg]
  | signs => simp [State.writeReg]
  | unused => simp [State.writeReg]
  | bankWord q i => cases hq : isOperandBank q <;> cases hb : s.busy <;> simp [State.writeReg, hq, hb]

/-! ### One step -/

theorem popTurn_of_nil {s : State} (h : s.agenda = []) : s.popTurn = s := by
  cases s
  simp only at h
  subst h
  rfl

/-- A step of the engine's turn (rule R59). -/
theorem step_engineTurn {s : State} (h : s.EngineTurn) : step s = engineStep s.popTurn := by
  rcases h with h | h
  · simp only [step, h, popTurn_of_nil h]
  · cases ha : s.agenda with
    | nil => simp [ha] at h
    | cons t ts =>
      rw [ha, List.head?_cons, Option.some.injEq] at h
      subst h
      simp only [step, ha]

/-- Everything one step can do when it gives a next state (rules R55, R56, R59, R101). -/
theorem step_cases {s t : State} (h : step s = .next t) :
    (s.EngineTurn ∧ s.busy = false ∧ t = s.popTurn) ∨
    (s.EngineTurn ∧ s.busy = true ∧ ∃ i, decode s.cmd = .ok i ∧
      t = s.popTurn.complete (outcomeOf i s.popTurn)) ∨
    (s.EngineTurn ∧ s.busy = true ∧ (∃ e, decode s.cmd = .error e) ∧
      t = s.popTurn.raiseErr .illegalCommand) ∨
    (∃ addr rest, s.agenda = .host (.read addr 4) :: rest ∧ accessWf s.cfg addr 4 = true ∧
      t = s.popTurn.logRead (s.popTurn.readReg (decodeOffset s.cfg.words (addr - s.cfg.base)))) ∨
    (∃ addr v rest, s.agenda = .host (.write addr 4 v) :: rest ∧ accessWf s.cfg addr 4 = true ∧
      t = s.popTurn.writeReg (decodeOffset s.cfg.words (addr - s.cfg.base)) v) ∨
    (s.ResetTurn ∧ t = s.popTurn.resetInput) := by
  have engine : s.EngineTurn → engineStep s.popTurn = .next t →
      (s.EngineTurn ∧ s.busy = false ∧ t = s.popTurn) ∨
      (s.EngineTurn ∧ s.busy = true ∧ ∃ i, decode s.cmd = .ok i ∧
        t = s.popTurn.complete (outcomeOf i s.popTurn)) ∨
      (s.EngineTurn ∧ s.busy = true ∧ (∃ e, decode s.cmd = .error e) ∧
        t = s.popTurn.raiseErr .illegalCommand) := by
    intro he h
    cases hb : s.busy with
    | false =>
      simp only [engineStep, State.popTurn_busy, hb, Bool.false_eq_true, if_false] at h
      cases h
      exact .inl ⟨he, rfl, rfl⟩
    | true =>
      simp only [engineStep, State.popTurn_busy, hb, if_true, State.popTurn_cmd] at h
      cases hd : decode s.cmd with
      | ok i =>
        rw [hd] at h
        simp only [exec_eq] at h
        cases h
        exact .inr (.inl ⟨he, rfl, i, rfl, rfl⟩)
      | error e =>
        rw [hd] at h
        cases h
        exact .inr (.inr ⟨he, rfl, ⟨e, rfl⟩, rfl⟩)
  have size4 : ∀ {addr size}, accessWf s.cfg addr size = true → size = 4 := by
    intro addr size hw
    simp only [accessWf, Bool.and_eq_true, decide_eq_true_eq] at hw
    exact hw.1.2
  cases ha : s.agenda with
  | nil =>
    have he : s.EngineTurn := .inl ha
    rw [step_engineTurn he] at h
    rcases engine he h with h | h | h
    · exact .inl h
    · exact .inr (.inl h)
    · exact .inr (.inr (.inl h))
  | cons u rest =>
    cases u with
    | engine =>
      have he : s.EngineTurn := .inr (by rw [ha]; rfl)
      rw [step_engineTurn he] at h
      rcases engine he h with h | h | h
      · exact .inl h
      · exact .inr (.inl h)
      · exact .inr (.inr (.inl h))
    | reset =>
      simp only [step, ha] at h
      cases h
      exact .inr (.inr (.inr (.inr (.inr ⟨by rw [State.ResetTurn, ha]; rfl, rfl⟩))))
    | host op =>
      cases op with
      | read addr size =>
        simp only [step, ha, execHost] at h
        obtain ⟨hw, ht⟩ := execRead_next_iff.mp h
        obtain rfl := size4 hw
        exact .inr (.inr (.inr (.inl ⟨addr, rest, rfl, hw, ht⟩)))
      | write addr size v =>
        simp only [step, ha, execHost] at h
        obtain ⟨hw, ht⟩ := execWrite_next_iff.mp h
        obtain rfl := size4 hw
        exact .inr (.inr (.inr (.inr (.inl ⟨addr, v, rest, rfl, hw, ht⟩))))

theorem runSteps_succ {s t : State} {k : Nat} (h : step s = .next t) :
    runSteps (k + 1) s = runSteps k t := by
  rw [runSteps, h]

/-! ### Every operation keeps the width of the banks (rule R14) -/

theorem banksFit_finish {s : State} (e : ErrCode) (h : s.BanksFit) : (s.finish e).BanksFit := h

theorem banksFit_start {s : State} (v : Word) (h : s.BanksFit) : (s.start v).BanksFit := h

theorem banksFit_clearDone {s : State} (h : s.BanksFit) : s.clearDone.BanksFit := h

theorem banksFit_setIe {s : State} (v : Bool) (h : s.BanksFit) : (s.setIe v).BanksFit := h

theorem banksFit_logRead {s : State} (v : Word) (h : s.BanksFit) : (s.logRead v).BanksFit := h

theorem banksFit_popTurn {s : State} (h : s.BanksFit) : s.popTurn.BanksFit := h

theorem banksFit_putRes {s : State} (v : Nat) (h : s.BanksFit) : (s.putRes v).BanksFit := by
  simp_all [State.BanksFit]

theorem banksFit_putCoeffs {s : State} (x y : Int) (h : s.BanksFit) : (s.putCoeffs x y).BanksFit := by
  simp_all [State.BanksFit]

theorem banksFit_setWord {s : State} (q : BankId) (i : Nat) (v : Word) (h : s.BanksFit) :
    (s.setBank q ((s.bank q).set i v)).BanksFit := by
  cases q <;> simp_all [State.bank, State.BanksFit]

theorem banksFit_resetInput (s : State) : s.resetInput.BanksFit := by
  simp [State.BanksFit]

theorem banksFit_resetWith (c : Config) : (State.resetWith c).BanksFit := by
  simp [State.resetWith, State.BanksFit]

theorem banksFit_complete {s : State} (o : CmdOutcome) (h : s.BanksFit) : (s.complete o).BanksFit := by
  rcases o with ⟨v, _ | ⟨x, y⟩⟩ | e
  · exact banksFit_finish _ (banksFit_putRes v h)
  · exact banksFit_finish _ (banksFit_putCoeffs x y (banksFit_putRes v h))
  · exact banksFit_finish _ h

theorem banksFit_writeReg {s : State} (r : Reg) (v : Word) (h : s.BanksFit) :
    (s.writeReg r v).BanksFit := by
  rcases writeReg_cases s r v with e | ⟨-, -, e⟩ | ⟨-, -, e⟩ | ⟨-, e⟩ | ⟨q, i, -, -, -, e⟩ <;> rw [e]
  · exact h
  · exact banksFit_start v h
  · exact banksFit_clearDone h
  · exact banksFit_setIe _ h
  · exact banksFit_setWord q i v h

end Sys2Proof.Machine
end

