-- ==== Sys2Proof/Laws/PerInstr.lean ====
section
/-! SUPPORT. The statements made per command: its word is legal and decodes to it (rules R45, R46). -/

/-- The command's word is legal, and the decoder reads the command back from it. -/
def Sys2Proof.Laws.LegalEncoding.Statement (i : Sys2Proof.Instr) : Prop :=
  Sys2Proof.legalWord (Sys2Proof.encode i) = true ∧
    Sys2Proof.decode (Sys2Proof.encode i) = .ok i

theorem Sys2Proof.Laws.LegalEncoding.montmul :
    Sys2Proof.Laws.LegalEncoding.Statement .montmul := ⟨by decide, by decide⟩

theorem Sys2Proof.Laws.LegalEncoding.tomont :
    Sys2Proof.Laws.LegalEncoding.Statement .tomont := ⟨by decide, by decide⟩

theorem Sys2Proof.Laws.LegalEncoding.modexp :
    Sys2Proof.Laws.LegalEncoding.Statement .modexp := ⟨by decide, by decide⟩

theorem Sys2Proof.Laws.LegalEncoding.modinv :
    Sys2Proof.Laws.LegalEncoding.Statement .modinv := ⟨by decide, by decide⟩

theorem Sys2Proof.Laws.LegalEncoding.xgcd :
    Sys2Proof.Laws.LegalEncoding.Statement .xgcd := ⟨by decide, by decide⟩
end

