-- ==== Sys2Proof/Tests/Slice0.lean ====
section
/-! SUPPORT. Tests with expected values from spec/95_test_vectors.md (its vector is named beside each),
the WellFormed smoke test, and for every statement with hypotheses a state that meets them. -/

namespace Sys2Proof.Tests

open Sys2Proof Sys2Proof.Machine

/-! ## Small states -/

/-- An idle block of `w` words per bank at BASE 0x40000000, with the operands given; the result banks
hold markers (section 2.7 of the vectors). -/
def idle (w a b n : Nat) : State :=
  { State.resetWith { capW := BitVec.ofNat 16 w, base := 0x40000000 } with
    a := bankOfNat w a
    b := bankOfNat w b
    n := bankOfNat w n
    res := bankOfNat w 0xDEAD0003
    x := bankOfNat w 0xDEAD0004
    y := bankOfNat w 0xDEAD0005 }

/-- That block with the command word accepted and CTRL.IE = 1. -/
def busyOn (cmd : Word) (w a b n : Nat) : State :=
  { idle w a b n with cmd := cmd, busy := true, ie := true }

/-- That block with a command completed without error and CTRL.IE = 1. -/
def doneOn (w a b n : Nat) : State :=
  { idle w a b n with cmd := 1, done := true, ie := true }

/-- The state with these turns to come. -/
def thenTurns (ts : List Turn) (s : State) : State := { s with agenda := ts }

/-- A read of 4 bytes at an offset of these blocks. -/
def rdAt (off : Nat) : Turn := .host (.read (0x40000000 + off) 4)

/-- A write of 4 bytes at an offset of these blocks. -/
def wrAt (off : Nat) (v : Word) : Turn := .host (.write (0x40000000 + off) 4 v)

/-- The next state, if there is one. -/
def nextOf (o : Host.Outcome State Fault Refusal) : Option State :=
  match o with
  | .next t => some t
  | .fault _ => none
  | .refused _ => none

/-- STATUS, RES, X, Y and SIGNS after a step, as the vectors list them. -/
def results (o : Host.Outcome State Fault Refusal) : Option (Nat × Nat × Nat × Nat × Nat) :=
  (nextOf o).map fun t =>
    (t.statusWord.toNat, t.resVal, bankVal t.x, bankVal t.y, t.signsWord.toNat)

/-! ## Decoding: words from the encodings of the opcode table, bit by bit (V-ENC) -/

theorem test_decode_montmul : decode 0b00000000000000000000000000000001#32 = .ok .montmul := by decide
theorem test_decode_tomont : decode 0b00000000000000000000000000000010#32 = .ok .tomont := by decide
theorem test_decode_modexp : decode 0b00000000000000000000000000000011#32 = .ok .modexp := by decide
theorem test_decode_modinv : decode 0b00000000000000000000000000000100#32 = .ok .modinv := by decide
theorem test_decode_xgcd : decode 0b00000000000000000000000000000101#32 = .ok .xgcd := by decide

/-- V-ENC-6 to V-ENC-11. -/
theorem test_decode_rejects :
    decode 0b00000000000000000000000000000000#32 = .error .opcodeZero ∧
    decode 0b00000000000000000000000000000110#32 = .error .opcodeReserved ∧
    decode 0b00000000000000000000000000001111#32 = .error .opcodeReserved ∧
    decode 0b00000000000000000000000000010011#32 = .error .reservedBitsSet ∧
    decode 0b10000000000000000000000000000001#32 = .error .reservedBitsSet ∧
    decode 0b00000000000000000000000000010000#32 = .error .reservedBitsSet := by decide

theorem test_decodeTableWord :
    decodeTableWord 32 3 = some .modexp ∧ decodeTableWord 8 5 = some .xgcd ∧
    decodeTableWord 32 0x80000001 = none := by decide

/-! ## WellFormed: each check refuses an ill-formed term -/

theorem test_wf_config_accepts : Config.wf { capW := 0xFFFF, base := 0x40000000 } = true := by decide
theorem test_wf_config_no_words : Config.wf { capW := 0, base := 0 } = false := by decide
theorem test_wf_config_base : Config.wf { capW := 1, base := 2 } = false := by decide
theorem test_wf_access_accepts : accessWf { capW := 1, base := 8 } 8 4 = true := by decide
theorem test_wf_access_below : accessWf { capW := 1, base := 8 } 4 4 = false := by decide
theorem test_wf_access_width : accessWf { capW := 1, base := 8 } 8 2 = false := by decide
theorem test_wf_access_alignment : accessWf { capW := 1, base := 8 } 10 4 = false := by decide
theorem test_wf_hostOp :
    HostOp.wf { capW := 1, base := 0 } (.read 0 1) = false ∧
    HostOp.wf { capW := 1, base := 0 } (.write 1 4 7) = false := by decide
theorem test_wf_turn :
    Turn.wf { capW := 1, base := 0 } (.host (.read 0 8)) = false ∧
    Turn.wf { capW := 1, base := 0 } .engine = true := by decide
theorem test_wf_word :
    legalWord 0 = false ∧ legalWord 6 = false ∧ legalWord 15 = false ∧ legalWord 0x13 = false ∧
    legalWord 1 = true ∧ legalWord 5 = true := by decide

/-! ## The commands -/

/-- V-MM-1. -/
theorem test_montmul_value :
    results (exec .montmul (busyOn 1 1 65 42 3233)) =
      some (0x02, 1178, 0xDEAD0004, 0xDEAD0005, 0) := by decide

/-- V-MM-17: the even modulus is reported before the range error. -/
theorem test_montmul_even_before_range :
    results (exec .montmul (busyOn 1 1 9 1 8)) =
      some (0x32, 0xDEAD0003, 0xDEAD0004, 0xDEAD0005, 0) := by decide

/-- V-TM-8: B is not read. -/
theorem test_tomont_ignores_b :
    results (exec .tomont (busyOn 2 1 6 0xFFFFFFFF 7)) =
      some (0x02, 3, 0xDEAD0004, 0xDEAD0005, 0) := by decide

/-- V-TM-13, two words per bank. -/
theorem test_tomont_two_words :
    results (exec .tomont (busyOn 2 2 42 0 0xFFFFFFEA00000055)) =
      some (0x02, 0x0000039BFFFFF20E, 0xDEAD0004, 0xDEAD0005, 0) := by decide

/-- V-ME-12. -/
theorem test_modexp_large_exponent :
    results (exec .modexp (busyOn 3 1 2 0xFFFFFFFF 0xFFFFFFFB)) =
      some (0x02, 32, 0xDEAD0004, 0xDEAD0005, 0) := by decide

/-- V-ME-28: an exponent with only an upper word. -/
theorem test_modexp_upper_word :
    results (exec .modexp (busyOn 3 2 2 0x0000000100000000 0x00000000FFFFFFFB)) =
      some (0x02, 64, 0xDEAD0004, 0xDEAD0005, 0) := by decide

/-- V-INV-1 (the document's own example S1). -/
theorem test_modinv_rsa :
    results (exec .modinv (busyOn 4 1 17 0 3120)) =
      some (0x02, 2753, 0xDEAD0004, 0xDEAD0005, 0) := by decide

/-- V-INV-7: A = 0 wins over N = 1. -/
theorem test_modinv_of_zero :
    results (exec .modinv (busyOn 4 1 0 0 1)) =
      some (0x12, 0xDEAD0003, 0xDEAD0004, 0xDEAD0005, 0) := by decide

/-- V-XG-1. -/
theorem test_xgcd_signs :
    results (exec .xgcd (busyOn 5 1 240 46 0)) = some (0x02, 2, 0x9, 0x2F, 0x1) := by decide

/-- V-XG-17: a large negative coefficient. -/
theorem test_xgcd_large_coefficient :
    results (exec .xgcd (busyOn 5 1 0xFFFFFFFF 2 0)) =
      some (0x02, 1, 0x1, 0x7FFFFFFF, 0x2) := by decide

/-- V-ENC-9: 0x13 is not run as MODEXP. -/
theorem test_illegal_word :
    results (step (busyOn 0x13 1 1 1 7)) =
      some (0x52, 0xDEAD0003, 0xDEAD0004, 0xDEAD0005, 0) := by decide

/-! ## Host accesses -/

/-- V-HA-17: START, then STATUS and CMD. -/
theorem test_start :
    (nextOf (runSteps 3 (thenTurns [wrAt 0x000 3, rdAt 0x004, rdAt 0x000] (idle 1 3 4 7)))).map
      State.readLog = some [3, 1] := by decide

/-- V-HA-18 and V-HA-19: writes to A and CMD are dropped while busy. -/
theorem test_writes_dropped :
    (nextOf (runSteps 4 (thenTurns [wrAt 0x100 5, rdAt 0x100, wrAt 0x000 4, rdAt 0x000]
      (busyOn 3 1 3 4 7)))).map State.readLog = some [3, 3] := by decide

/-- V-HA-12: only bit 0 of CTRL is kept. -/
theorem test_ctrl :
    (nextOf (runSteps 4 (thenTurns [wrAt 0x008 0xFFFFFFFF, rdAt 0x008, wrAt 0x008 0xFFFFFFFE,
      rdAt 0x008] (idle 1 0 0 0)))).map State.readLog = some [0, 1] := by decide

/-- V-HA-23 and V-HA-24: no ACK with bit 1 clear; ACK clears DONE. -/
theorem test_ack :
    (nextOf (runSteps 4 (thenTurns [wrAt 0x004 0xFFFFFFFD, rdAt 0x004, wrAt 0x004 2, rdAt 0x004]
      (doneOn 1 0 0 0)))).map State.readLog = some [0, 2] := by decide

/-- V-HA-14: B is written, RES is read-only; V-HA-7: 0 above the block. -/
theorem test_bank_words :
    (nextOf (runSteps 5 (thenTurns [wrAt 0x104 4, wrAt 0x10C 0x99, rdAt 0x104, rdAt 0x10C,
      rdAt 0x118] (idle 1 0 0 0)))).map State.readLog = some [0, 0xDEAD0003, 4] := by decide

/-- V-WB-1 and V-WB-4: the bus accesses of WR N and RD RES with two words per bank. -/
theorem test_whole_bank_notation :
    wr { capW := 2, base := 0x40000000 } .n 3233 = [wrAt 0x110 0x00000CA1, wrAt 0x114 0] ∧
    rd { capW := 2, base := 0x40000000 } .res = [rdAt 0x118, rdAt 0x11C] := by decide

/-- R51, FROMMONT: B becomes 1 and MONTMUL starts. -/
theorem test_fromMont :
    fromMont { capW := 1, base := 0x40000000 } = [wrAt 0x104 1, wrAt 0x000 1] := by decide

/-- R51: WAIT polls STATUS; the error number of V-INV-7's STATUS. -/
theorem test_wait_and_err :
    waitPolls { capW := 1, base := 0x40000000 } 2 = [rdAt 0x004, rdAt 0x004] ∧
    errOf 0x12 = 1 ∧ ackOp { capW := 1, base := 0x40000000 } = [wrAt 0x004 2] ∧
    ieOn { capW := 1, base := 0x40000000 } = [wrAt 0x008 1] ∧
    ieOff { capW := 1, base := 0x40000000 } = [wrAt 0x008 0] := by decide

/-! ## The reference datapaths -/

/-- The trace of V-MM-1: S after the steps 0, 1, 6 and 31. -/
theorem test_montAcc_trace :
    montAcc 65 42 3233 1 = 21 ∧ montAcc 65 42 3233 2 = 1627 ∧ montAcc 65 42 3233 7 = 577 ∧
    montAcc 65 42 3233 32 = 1178 ∧ montRadix2 32 65 42 3233 = 1178 := by decide

/-- The trace of V-ME-1: acc after the bits 4, 3 and 0, RR, and the result. -/
theorem test_ladder_trace :
    ladderScan 32 3233 0b1 716 1 1155 = 716 ∧ ladderScan 32 3233 0b10 716 2 1155 = 1278 ∧
    ladderScan 32 3233 17 716 5 1155 = 2382 ∧ modDouble 3233 64 = 2029 ∧
    montProd 32 2382 1 3233 = 2790 := by decide

/-- The trace of S1: the triples after step 2. -/
theorem test_xgcd_trace :
    xgcdIter 17 3120 2 = (⟨1, 0, 17⟩, ⟨-183, 1, 9⟩) := by decide

/-! ## Reset and the host's interface -/

/-- R30, V-HA-1 to V-HA-5. -/
theorem test_reset_reads :
    (nextOf (runSteps 5 (thenTurns [rdw Config.resetDefault 0x000, rdw Config.resetDefault 0x004,
      rdw Config.resetDefault 0x008, rdw Config.resetDefault 0x00C, rdw Config.resetDefault 0x010]
      State.reset))).map State.readLog = some [0, 1, 0, 0, 0] := by decide

/-- R59, R81: the first step after reset with XGCD's word placed; gcd(0, 0) = 0 (V-XG-4). -/
theorem test_first_command_after_reset :
    results (step (State.reset.withFetchWord 32 5)) = some (0x02, 0, 1, 0, 0) := by decide

/-! ## Witnesses: for each statement with hypotheses, states that meet them, each clause at a boundary -/

theorem witness_EngineStepRunsTheDecodedCommand :
    (busyOn 3 1 3 4 7).busy = true ∧ decode (busyOn 3 1 3 4 7).cmd = .ok .modexp ∧
    (busyOn 3 1 3 4 7).agenda = [] ∧
    (thenTurns [.engine, .reset] (busyOn 3 1 3 4 7)).agenda = .engine :: [.reset] := by decide

theorem witness_IllegalWordCompletesWithIllegalCommand :
    (busyOn 0 1 1 1 0).EngineTurn ∧ (busyOn 0 1 1 1 0).busy = true ∧
    (busyOn 0 1 1 1 0).cmd.extractLsb' 0 4 = 0 ∧
    (busyOn 6 1 1 1 0).EngineTurn ∧ 6 ≤ ((busyOn 6 1 1 1 0).cmd.extractLsb' 0 4).toNat ∧
    (thenTurns [.engine] (busyOn 0x11 1 1 1 0)).EngineTurn ∧
    (busyOn 0x11 1 1 1 0).cmd.extractLsb' 4 28 ≠ 0 ∧
    (busyOn 0x80000001 1 1 1 0).cmd.extractLsb' 4 28 ≠ 0 := by decide

theorem witness_IdleEngineTurnChangesNothing :
    (idle 1 1 2 3).EngineTurn ∧ (idle 1 1 2 3).busy = false ∧
    (thenTurns [.engine, .reset] (idle 1 1 2 3)).EngineTurn := by decide

theorem witness_EveryCommandCompletesAtTheEngineTurn :
    (busyOn 5 1 240 46 0).EngineTurn ∧ (busyOn 5 1 240 46 0).busy = true ∧
    (thenTurns [.engine] (busyOn 0 1 0 0 0)).EngineTurn ∧
    (thenTurns [.engine] (busyOn 0 1 0 0 0)).busy = true := by decide

/-- N = 0; N even; A = N; B = N; A and B below N; the smallest modulus. -/
theorem witness_MontmulGivesTheMontgomeryProduct :
    (busyOn 1 1 5 1 0).Inv ∧ (busyOn 1 1 5 1 0).opN = 0 ∧
    (busyOn 1 1 9 1 8).Inv ∧ (busyOn 1 1 9 1 8).opN ≠ 0 ∧ (busyOn 1 1 9 1 8).opN % 2 = 0 ∧
    (busyOn 1 1 7 1 7).Inv ∧ (busyOn 1 1 7 1 7).opN % 2 = 1 ∧
    (busyOn 1 1 7 1 7).opN ≤ (busyOn 1 1 7 1 7).opA ∧
    (busyOn 1 1 1 7 7).Inv ∧ (busyOn 1 1 1 7 7).opN ≤ (busyOn 1 1 1 7 7).opB ∧
    (busyOn 1 1 6 6 7).Inv ∧ (busyOn 1 1 6 6 7).opN % 2 = 1 ∧
    (busyOn 1 1 6 6 7).opA < (busyOn 1 1 6 6 7).opN ∧
    (busyOn 1 1 6 6 7).opB < (busyOn 1 1 6 6 7).opN ∧
    (busyOn 1 1 0 0 1).Inv ∧ (busyOn 1 1 0 0 1).opN % 2 = 1 ∧
    (busyOn 1 1 0 0 1).opA < (busyOn 1 1 0 0 1).opN := by
  and_intros <;> decide

theorem witness_TomontGivesTheMontgomeryForm :
    (busyOn 2 1 0 0 0).Inv ∧ (busyOn 2 1 0 0 0).opN = 0 ∧
    (busyOn 2 1 9 0 8).Inv ∧ (busyOn 2 1 9 0 8).opN ≠ 0 ∧ (busyOn 2 1 9 0 8).opN % 2 = 0 ∧
    (busyOn 2 1 7 0 7).Inv ∧ (busyOn 2 1 7 0 7).opN % 2 = 1 ∧
    (busyOn 2 1 7 0 7).opN ≤ (busyOn 2 1 7 0 7).opA ∧
    (busyOn 2 1 6 0 7).Inv ∧ (busyOn 2 1 6 0 7).opN % 2 = 1 ∧
    (busyOn 2 1 6 0 7).opA < (busyOn 2 1 6 0 7).opN := by
  and_intros <;> decide

theorem witness_ModexpGivesThePower :
    (busyOn 3 1 2 3 0).Inv ∧ (busyOn 3 1 2 3 0).opN = 0 ∧
    (busyOn 3 1 2 3 10).Inv ∧ (busyOn 3 1 2 3 10).opN ≠ 0 ∧ (busyOn 3 1 2 3 10).opN % 2 = 0 ∧
    (busyOn 3 1 65 17 3233).Inv ∧ (busyOn 3 1 65 17 3233).opN % 2 = 1 := by decide

theorem witness_ModexpReducesALargeBase :
    (busyOn 3 1 7 3 7).Inv ∧ (busyOn 3 1 7 3 7).opN % 2 = 1 ∧
    (busyOn 3 1 7 3 7).opN ≤ (busyOn 3 1 7 3 7).opA := by decide

theorem witness_ModexpOfZeroExponentIsOne :
    (busyOn 3 1 0 0 7).Inv ∧ (busyOn 3 1 0 0 7).opN % 2 = 1 ∧ (busyOn 3 1 0 0 7).opB = 0 ∧
    1 < (busyOn 3 1 0 0 7).opN ∧ (busyOn 3 1 0 0 1).Inv ∧ (busyOn 3 1 0 0 1).opB = 0 ∧
    (busyOn 3 1 0 0 1).opN = 1 := by decide

/-- N = 0; A = 0; gcd 3; gcd 1 with an even modulus; N = 1. -/
theorem witness_ModinvGivesTheInverse :
    (busyOn 4 1 4 0 0).Inv ∧ (busyOn 4 1 4 0 0).opN = 0 ∧
    (busyOn 4 1 0 0 1).Inv ∧ (busyOn 4 1 0 0 1).opN ≠ 0 ∧ (busyOn 4 1 0 0 1).opA = 0 ∧
    (busyOn 4 1 6 0 9).Inv ∧ (busyOn 4 1 6 0 9).opN ≠ 0 ∧ (busyOn 4 1 6 0 9).opA ≠ 0 ∧
    Nat.gcd (busyOn 4 1 6 0 9).opA (busyOn 4 1 6 0 9).opN ≠ 1 ∧
    (busyOn 4 1 3 0 8).Inv ∧ (busyOn 4 1 3 0 8).opN ≠ 0 ∧ (busyOn 4 1 3 0 8).opA ≠ 0 ∧
    Nat.gcd (busyOn 4 1 3 0 8).opA (busyOn 4 1 3 0 8).opN = 1 ∧
    (busyOn 4 1 5 0 1).Inv ∧ Nat.gcd (busyOn 4 1 5 0 1).opA (busyOn 4 1 5 0 1).opN = 1 := by
  and_intros <;> decide

/-- For XgcdGivesTheGcdAndBezoutCoefficients and XgcdStoresThePairOfTheAlgorithm. -/
theorem witness_Xgcd :
    (busyOn 5 1 240 46 0).Inv ∧ (busyOn 5 1 0 0 0).Inv ∧
    (busyOn 5 1 0xFFFFFFFF 0xFFFFFFFF 0).Inv ∧ 0 < 1 := by decide

/-- The loop of rule R77 on b = 1 is at its end after 2 steps. -/
theorem witness_EuclidLoopInvariantsAndEnd : 1 < 2 ∧ (xgcdIter 5 1 2).2.c3 = 0 := by decide

theorem witness_ModinvAgreesWithXgcd : ∃ t,
    (busyOn 4 1 17 0 3120).Inv ∧ (busyOn 5 1 17 3120 0).Inv ∧
    (busyOn 5 1 17 3120 0).opA = (busyOn 4 1 17 0 3120).opA ∧
    (busyOn 5 1 17 3120 0).opB = (busyOn 4 1 17 0 3120).opN ∧
    exec .modinv (busyOn 4 1 17 0 3120) = .next t ∧ t.err = .noError :=
  ⟨_, by decide, by decide, by decide, by decide, rfl, by decide⟩

/-- Every command gives a next state, and a step with a command in progress too, of an illegal word and
of a legal one. -/
theorem witness_ErrorCodeIsTheFirstInTheFixedOrder : ∃ t1 t2 t3 t4 t5 t6 t7,
    exec .montmul (busyOn 1 1 5 1 0) = .next t1 ∧ exec .tomont (busyOn 2 1 9 0 8) = .next t2 ∧
    exec .modexp (busyOn 3 1 2 3 10) = .next t3 ∧ exec .modinv (busyOn 4 1 0 0 0) = .next t4 ∧
    exec .xgcd (busyOn 5 1 0 0 0) = .next t5 ∧
    (busyOn 0x10 1 1 1 0).EngineTurn ∧ (busyOn 0x10 1 1 1 0).busy = true ∧
    step (busyOn 0x10 1 1 1 0) = .next t6 ∧ t6.err = .illegalCommand ∧
    step (busyOn 3 1 2 3 0) = .next t7 ∧ t7.err = .modulusZero :=
  ⟨_, _, _, _, _, _, _, rfl, rfl, rfl, rfl, rfl, by decide, by decide, rfl, by decide, rfl, by decide⟩

theorem witness_ErrorCompletionChangesThreeFields : ∃ t,
    (thenTurns [.engine] (busyOn 4 1 6 0 9)).EngineTurn ∧
    (thenTurns [.engine] (busyOn 4 1 6 0 9)).busy = true ∧
    step (thenTurns [.engine] (busyOn 4 1 6 0 9)) = .next t ∧ t.err ≠ .noError :=
  ⟨_, by decide, by decide, rfl, by decide⟩

theorem witness_CommandsWriteOnlyTheirBanks : ∃ t t',
    exec .modexp (busyOn 3 1 3 4 7) = .next t ∧ Instr.modexp ≠ .xgcd ∧
    exec .xgcd (busyOn 5 1 240 46 0) = .next t' :=
  ⟨_, _, rfl, by decide, rfl⟩

/-- Two states that differ in B and in the command word, run by TOMONT; and two that differ in N, by XGCD. -/
theorem witness_ResultsDependOnlyOnTheBanksRead : ∃ t t' u u',
    (busyOn 2 1 6 1 7).cfg.capW = (busyOn 2 1 6 2 7).cfg.capW ∧
    (busyOn 2 1 6 1 7).a = (busyOn 2 1 6 2 7).a ∧ (busyOn 2 1 6 1 7).n = (busyOn 2 1 6 2 7).n ∧
    exec .tomont (busyOn 2 1 6 1 7) = .next t ∧ exec .tomont (busyOn 2 1 6 2 7) = .next t' ∧
    t.err = .noError ∧
    (busyOn 5 1 6 9 0).a = (busyOn 5 1 6 9 8).a ∧ (busyOn 5 1 6 9 0).b = (busyOn 5 1 6 9 8).b ∧
    exec .xgcd (busyOn 5 1 6 9 0) = .next u ∧ exec .xgcd (busyOn 5 1 6 9 8) = .next u' ∧
    u.err = .noError :=
  ⟨_, _, _, _, by decide, by decide, by decide, rfl, rfl, by decide, by decide, by decide, rfl, rfl,
    by decide⟩

/-- For MontgomeryFormLaws and RadixTwoLoopComputesTheMontgomeryProduct (k = 32), the smallest modulus
and the vectors' own. -/
theorem witness_montgomery :
    1 % 2 = 1 ∧ 0 < 1 ∧ 3233 % 2 = 1 ∧ 1 < 3233 ∧ 65 < 3233 ∧ 3232 < 3233 ∧ 3233 < 2 ^ 32 := by
  decide

/-- V-MM-13: 716 is the Montgomery form of 65. -/
theorem witness_MontmulByOneLeavesTheMontgomeryDomain :
    (busyOn 1 1 716 1 3233).Inv ∧ (busyOn 1 1 716 1 3233).opN % 2 = 1 ∧
    1 < (busyOn 1 1 716 1 3233).opN ∧ 65 < (busyOn 1 1 716 1 3233).opN ∧
    (busyOn 1 1 716 1 3233).opA =
      65 * 2 ^ (busyOn 1 1 716 1 3233).cfg.bits % (busyOn 1 1 716 1 3233).opN ∧
    (busyOn 1 1 716 1 3233).opB = 1 := by decide

/-- For LadderComputesThePower (an odd modulus) and ModexpLaws (k = 32, the largest exponent). -/
theorem witness_modexp :
    3233 % 2 = 1 ∧ 0 < 32 ∧ 1 < 32 ∧ 0 < 2 ^ 32 ∧ 0xFFFFFFFF < 2 ^ 32 := by decide

/-- Program P1: p = 61, q = 53, e = 17, m = 65. -/
theorem witness_RsaRoundTripOnTheBlock : ∃ t1 t2,
    Nat.Prime 61 ∧ Nat.Prime 53 ∧ (61 ≠ 53 ∧ 61 ≠ 2 ∧ 53 ≠ 2) ∧
    (busyOn 4 1 17 0 3120).Inv ∧ (busyOn 3 1 65 17 3233).Inv ∧ (busyOn 3 1 2790 2753 3233).Inv ∧
    (busyOn 4 1 17 0 3120).opN = (61 - 1) * (53 - 1) ∧
    exec .modinv (busyOn 4 1 17 0 3120) = .next t1 ∧ t1.err = .noError ∧
    (busyOn 3 1 65 17 3233).opN = 61 * 53 ∧
    (busyOn 3 1 65 17 3233).opB = (busyOn 4 1 17 0 3120).opA ∧
    (busyOn 3 1 65 17 3233).opA < 61 * 53 ∧
    exec .modexp (busyOn 3 1 65 17 3233) = .next t2 ∧
    (busyOn 3 1 2790 2753 3233).opN = 61 * 53 ∧
    (busyOn 3 1 2790 2753 3233).opA = t2.resVal ∧ (busyOn 3 1 2790 2753 3233).opB = t1.resVal :=
  ⟨_, _, by norm_num, by norm_num, by decide, by decide, by decide, by decide, by decide, rfl,
    by decide, by decide, by decide, by decide, rfl, by decide, by decide, by decide⟩

/-- The first word of A and the last of Y with one word per bank. -/
theorem witness_BankOffsetsAndWordsAgree :
    0 < 1 ∧ 0x100 ≤ 0x100 ∧ 0x114 < 0x100 + 24 * 1 ∧ 0x100 % 4 = 0 ∧ 0x114 % 4 = 0 := by decide

/-- One state for the hypotheses with any offset of the list below, and the clause each offset falls
under: CMD to SIGNS, the first and the last bank word, the first and the last reserved offset, the first
above the block. -/
theorem witness_HostReadReturnsTheRegister :
    (∀ off ∈ [0x000, 0x004, 0x008, 0x00C, 0x010, 0x100, 0x114, 0x014, 0x0FC, 0x118],
      off % 4 = 0 ∧ (thenTurns [rdAt off] (idle 1 3 4 7)).agenda =
        .host (.read ((idle 1 3 4 7).cfg.base + off) 4) :: []) ∧
    0 < (idle 1 3 4 7).cfg.words ∧
    0x100 = 0x100 + 4 * (bankNumber .a * (idle 1 3 4 7).cfg.words + 0) ∧
    0x114 = 0x100 + 4 * (bankNumber .y * (idle 1 3 4 7).cfg.words + 0) ∧
    0x118 = 0x100 + 24 * (idle 1 3 4 7).cfg.words := by decide

/-- The first word of A and the last of N, with two words per bank. -/
theorem witness_HostWriteSetsOneOperandWord :
    (idle 2 3 4 7).Inv ∧ (idle 2 3 4 7).busy = false ∧ 1 < (idle 2 3 4 7).cfg.words ∧
    (thenTurns [wrAt 0x100 5] (idle 2 3 4 7)).agenda = .host (.write ((idle 2 3 4 7).cfg.base +
      (0x100 + 4 * (bankNumber .a * (idle 2 3 4 7).cfg.words + 0))) 4 5) :: [] ∧
    (thenTurns [wrAt 0x114 5] (idle 2 3 4 7)).agenda = .host (.write ((idle 2 3 4 7).cfg.base +
      (0x100 + 4 * (bankNumber .n * (idle 2 3 4 7).cfg.words + 1))) 4 5) :: [] := by decide

/-- CMD, the first and the last bank word. -/
theorem witness_WritesWhileBusyAreDropped :
    (busyOn 3 1 3 4 7).busy = true ∧
    ∀ off ∈ [0x000, 0x100, 0x114],
      (off = 0x000 ∨ (0x100 ≤ off ∧ off < 0x100 + 24 * (busyOn 3 1 3 4 7).cfg.words ∧ off % 4 = 0)) ∧
      (thenTurns [wrAt off 5] (busyOn 3 1 3 4 7)).agenda =
        .host (.write ((busyOn 3 1 3 4 7).cfg.base + off) 4 5) :: [] := by decide

/-- CAP, SIGNS, the first and the last reserved offset, the first word of RES, the first above the block. -/
theorem witness_WritesToReadOnlyOffsetsAreIgnored :
    ∀ off ∈ [0x00C, 0x010, 0x014, 0x0FC, 0x10C, 0x118], off % 4 = 0 ∧
      (off = 0x00C ∨ off = 0x010 ∨ (0x014 ≤ off ∧ off < 0x100) ∨
        0x100 + 12 * (idle 1 3 4 7).cfg.words ≤ off) ∧
      (thenTurns [wrAt off 5] (idle 1 3 4 7)).agenda =
        .host (.write ((idle 1 3 4 7).cfg.base + off) 4 5) :: [] := by decide

theorem witness_StartAcceptsTheCommandWord :
    (thenTurns [wrAt 0x000 3] (idle 1 3 4 7)).agenda =
      .host (.write (idle 1 3 4 7).cfg.base 4 3) :: [] ∧
    (idle 1 3 4 7).busy = false ∧
    (thenTurns [wrAt 0x000 4] (busyOn 3 1 3 4 7)).agenda =
      .host (.write (busyOn 3 1 3 4 7).cfg.base 4 4) :: [] ∧
    (busyOn 3 1 3 4 7).busy = true := by decide

theorem witness_AckClearsDoneAndNothingElse :
    (thenTurns [wrAt 0x004 2] (doneOn 1 3 4 7)).agenda =
      .host (.write ((doneOn 1 3 4 7).cfg.base + 0x004) 4 2) :: [] ∧ (2 : Word)[1] = true ∧
    (thenTurns [wrAt 0x004 0xFFFFFFFD] (doneOn 1 3 4 7)).agenda =
      .host (.write ((doneOn 1 3 4 7).cfg.base + 0x004) 4 0xFFFFFFFD) :: [] ∧
    (0xFFFFFFFD : Word)[1] = false := by decide

theorem witness_CtrlWriteSetsOnlyInterruptEnable :
    (thenTurns [wrAt 0x008 1] (busyOn 3 1 3 4 7)).agenda =
      .host (.write ((busyOn 3 1 3 4 7).cfg.base + 0x008) 4 1) :: [] := by decide

theorem witness_UndefinedAccessesAreRefused :
    (thenTurns [.host (.read 0x40000004 1)] (idle 1 3 4 7)).agenda =
      .host (.read ((idle 1 3 4 7).cfg.base + 4) 1) :: [] ∧ 1 ≠ 4 ∧
    (thenTurns [wrAt 2 5] (idle 1 3 4 7)).agenda =
      .host (.write ((idle 1 3 4 7).cfg.base + 2) 4 5) :: [] ∧ 2 % 4 ≠ 0 := by decide

theorem witness_AccessBelowBaseFaults :
    0x3FFFFFFC < (idle 1 3 4 7).cfg.base ∧
    (thenTurns [.host (.read 0x3FFFFFFC 4)] (idle 1 3 4 7)).agenda =
      .host (.read 0x3FFFFFFC 4) :: [] := by decide

/-- The largest value of two words. -/
theorem witness_WholeBankWriteStoresTheInteger :
    (idle 2 3 4 7).Inv ∧ (idle 2 3 4 7).busy = false ∧
    0xFFFFFFFFFFFFFFFF < 2 ^ (idle 2 3 4 7).cfg.bits ∧
    (thenTurns [wrAt 0x110 0xFFFFFFFF, wrAt 0x114 0xFFFFFFFF, .engine] (idle 2 3 4 7)).agenda =
      wr (idle 2 3 4 7).cfg .n 0xFFFFFFFFFFFFFFFF ++ [.engine] := by decide

theorem witness_WholeBankReadReturnsTheWords :
    (busyOn 3 2 3 4 7).Inv ∧
    (thenTurns [rdAt 0x118, rdAt 0x11C, .engine] (busyOn 3 2 3 4 7)).agenda =
      rd (busyOn 3 2 3 4 7).cfg .res ++ [.engine] := by decide

/-- irq falls by ACK, START, IEOFF and reset, and rises by a completion and by IEON. -/
theorem witness_IrqChangesOnlyWhereTheRuleSays :
    (∀ ts ∈ [[wrAt 0x004 2], [wrAt 0x000 3], [wrAt 0x008 0]],
      (thenTurns ts (doneOn 1 3 4 7)).Inv ∧ (thenTurns ts (doneOn 1 3 4 7)).irq = true ∧
      (nextOf (step (thenTurns ts (doneOn 1 3 4 7)))).map State.irq = some false) ∧
    (nextOf (step (thenTurns [.reset] (doneOn 1 3 4 7)))).map State.irq = some false ∧
    ((busyOn 3 1 3 4 7).Inv ∧ (busyOn 3 1 3 4 7).irq = false ∧
      (nextOf (step (busyOn 3 1 3 4 7))).map State.irq = some true) ∧
    ((thenTurns [wrAt 0x008 1] ((doneOn 1 3 4 7).setIe false)).Inv ∧
      (thenTurns [wrAt 0x008 1] ((doneOn 1 3 4 7).setIe false)).irq = false ∧
      (nextOf (step (thenTurns [wrAt 0x008 1] ((doneOn 1 3 4 7).setIe false)))).map State.irq =
        some true) := by
  and_intros <;> decide

theorem witness_ResetInputLeavesTheControlStateOfReset :
    (thenTurns [.reset] (busyOn 3 1 3 4 7)).ResetTurn ∧
    (thenTurns [.reset] (doneOn 1 3 4 7)).ResetTurn := by decide

theorem witness_InvariantHoldsAfterReset :
    Config.wf { capW := 1, base := 0 } = true ∧ Config.wf { capW := 0xFFFF, base := 0xFFFFFFFC } = true := by
  decide

/-- For EveryStepKeepsTheInvariant and ParametersNeverChange: the completion of an XGCD with a negative
coefficient, an accepted START, and a reset during a command. -/
theorem witness_EveryStepKeepsTheInvariant : ∃ t u v,
    (busyOn 5 1 240 46 0).Inv ∧ step (busyOn 5 1 240 46 0) = .next t ∧ t.xneg = true ∧
    (thenTurns [wrAt 0x000 3] (doneOn 1 3 4 7)).Inv ∧
    step (thenTurns [wrAt 0x000 3] (doneOn 1 3 4 7)) = .next u ∧ u.busy = true ∧
    (thenTurns [.reset] (busyOn 3 1 3 4 7)).Inv ∧
    step (thenTurns [.reset] (busyOn 3 1 3 4 7)) = .next v :=
  ⟨_, _, _, by decide, rfl, by decide, by decide, rfl, by decide, by decide, rfl⟩

/-- The last word of N, written while idle. -/
theorem witness_OperandsChangeOnlyByAHostWriteWhileIdle : ∃ t,
    step (thenTurns [wrAt 0x108 5] (idle 1 3 4 7)) = .next t ∧
    t.n ≠ (thenTurns [wrAt 0x108 5] (idle 1 3 4 7)).n :=
  ⟨_, rfl, by decide⟩

theorem witness_ResultsChangeOnlyInACompletion : ∃ t,
    step (busyOn 5 1 240 46 0) = .next t ∧ t.x ≠ (busyOn 5 1 240 46 0).x ∧
    t.xneg ≠ (busyOn 5 1 240 46 0).xneg :=
  ⟨_, rfl, by decide, by decide⟩

/-- An ACK; a read after the ACK, with DONE = 0; a START. -/
theorem witness_ResultsStayUntilTheNextStartOrReset : ∃ t u v,
    (thenTurns [wrAt 0x004 2, rdAt 0x10C] (doneOn 1 3 4 7)).Inv ∧
    (thenTurns [wrAt 0x004 2, rdAt 0x10C] (doneOn 1 3 4 7)).done = true ∧
    (thenTurns [wrAt 0x004 2, rdAt 0x10C] (doneOn 1 3 4 7)).busy = false ∧
    ¬(thenTurns [wrAt 0x004 2, rdAt 0x10C] (doneOn 1 3 4 7)).ResetTurn ∧
    step (thenTurns [wrAt 0x004 2, rdAt 0x10C] (doneOn 1 3 4 7)) = .next t ∧
    t.Inv ∧ t.done = false ∧ t.busy = false ∧ ¬t.ResetTurn ∧ step t = .next u ∧
    (thenTurns [wrAt 0x000 3] (doneOn 1 3 4 7)).Inv ∧
    (thenTurns [wrAt 0x000 3] (doneOn 1 3 4 7)).busy = false ∧
    ¬(thenTurns [wrAt 0x000 3] (doneOn 1 3 4 7)).ResetTurn ∧
    step (thenTurns [wrAt 0x000 3] (doneOn 1 3 4 7)) = .next v :=
  ⟨_, _, _, by decide, by decide, by decide, by decide, rfl, by decide, by decide, by decide,
    by decide, rfl, by decide, by decide, by decide, rfl⟩

/-- A completion, and a START. -/
theorem witness_BusyChangesOnlyByStartCompletionAndReset : ∃ t u,
    step (busyOn 3 1 3 4 7) = .next t ∧ (busyOn 3 1 3 4 7).busy = true ∧ t.busy = false ∧
    step (thenTurns [wrAt 0x000 3] (idle 1 3 4 7)) = .next u ∧
    (thenTurns [wrAt 0x000 3] (idle 1 3 4 7)).busy = false ∧ u.busy = true :=
  ⟨_, _, rfl, by decide, by decide, rfl, by decide, by decide⟩

/-- The host writes A, tries a second START, sets IE and reads STATUS while MODEXP is in progress. -/
theorem witness_AcceptedCommandCompletesWhateverTheHostDoes :
    (busyOn 3 1 3 4 7).Inv ∧ (busyOn 3 1 3 4 7).busy = true ∧
    decode (busyOn 3 1 3 4 7).cmd = .ok .modexp ∧
    [wrAt 0x100 5, wrAt 0x000 4, wrAt 0x008 0, rdAt 0x004].all
      (isDefinedHostTurn (busyOn 3 1 3 4 7).cfg) = true ∧
    (nextOf (runSteps 5 (thenTurns [wrAt 0x100 5, wrAt 0x000 4, wrAt 0x008 0, rdAt 0x004]
      (busyOn 3 1 3 4 7)))).map State.resVal = some 4 := by decide

end Sys2Proof.Tests
end

section
/-! Proofs about the interrupt output (rule R26). -/

namespace Sys2Proof.Machine

/-- The level of the interrupt output in terms of the two bits it is made of (rule R26). -/
@[simp] theorem State.irq_eq_true_iff (s : State) :
    s.irq = true ↔ s.ie = true ∧ s.done = true :=
  Bool.and_eq_true_iff

/-- Settles O41: irq is the conjunction of CTRL.IE and STATUS.DONE in every state. -/
theorem irqIsEnableAndDone : Obligations.IrqIsEnableAndDone :=
  State.irq_eq_true_iff

end Sys2Proof.Machine
end

section
/-! Proofs about the register map (rules R33, R34). -/

namespace Sys2Proof.Machine

/-- `bankOfNumber` inverts `bankNumber` (rule R34). -/
@[simp] theorem bankOfNumber_eq_some_iff {j : Nat} {q : BankId} :
    bankOfNumber j = some q ↔ bankNumber q = j := by
  constructor
  · intro h
    unfold bankOfNumber at h
    split at h <;> cases h <;> rfl
  · rintro rfl
    cases q <;> rfl

/-- The banks are numbered 0 to 5 (rule R34). -/
theorem bankNumber_lt_six (q : BankId) : bankNumber q < 6 := by
  cases q <;> decide

/-- Every number below 6 is the number of a bank (rule R34). -/
theorem exists_bankNumber_eq {j : Nat} (hj : j < 6) : ∃ q, bankNumber q = j := by
  have hsome : ∀ k < 6, (bankOfNumber k).isSome := by decide
  obtain ⟨q, hq⟩ := Option.isSome_iff_exists.mp (hsome j hj)
  exact ⟨q, bankOfNumber_eq_some_iff.mp hq⟩

/-- Word number k of the bank area is word k mod W of bank k div W (rule R34). -/
theorem decodeBankWord_of_bankNumber_eq {w k : Nat} {q : BankId} (h : bankNumber q = k / w) :
    decodeBankWord w k = .bankWord q (k % w) := by
  simp only [decodeBankWord, bankOfNumber_eq_some_iff.mpr h]

/-- The word numbers of six banks of W words are those below 6 * W. -/
theorem bankNumber_mul_add_lt {w i : Nat} (q : BankId) (hi : i < w) :
    bankNumber q * w + i < 6 * w :=
  calc bankNumber q * w + i < (bankNumber q + 1) * w := by rw [Nat.succ_mul]; omega
    _ ≤ 6 * w := Nat.mul_le_mul_right w (bankNumber_lt_six q)

/-- Word number `bankNumber q * w + i` of the bank area is word i of bank q (rule R34). -/
theorem decodeBankWord_bankNumber_mul_add {w i : Nat} (q : BankId) (hi : i < w) :
    decodeBankWord w (bankNumber q * w + i) = .bankWord q i := by
  have hdiv : (bankNumber q * w + i) / w = bankNumber q := by
    rw [Nat.mul_comm, Nat.mul_add_div (by omega), Nat.div_eq_of_lt hi, Nat.add_zero]
  rw [decodeBankWord_of_bankNumber_eq hdiv.symm, Nat.mul_add_mod_self_right, Nat.mod_eq_of_lt hi]

/-- An offset of the bank area names a bank word: the control registers lie below it (rule R33). -/
theorem decodeOffset_of_bankArea {w off : Nat} (hlo : 0x100 ≤ off) (hhi : off < 0x100 + 24 * w) :
    decodeOffset w off = decodeBankWord w ((off - 0x100) / 4) := by
  unfold decodeOffset
  rw [if_neg (by omega), if_neg (by omega), if_neg (by omega), if_neg (by omega),
    if_neg (by omega), if_pos ⟨hlo, hhi⟩]

/-- The offset of word i of bank q names that word (rule R34). -/
theorem decodeOffset_bankOffset {w i : Nat} (q : BankId) (hi : i < w) :
    decodeOffset w (bankOffset w q i) = .bankWord q i := by
  have hlt := bankNumber_mul_add_lt q hi
  unfold bankOffset
  rw [decodeOffset_of_bankArea (by omega) (by omega), Nat.add_sub_cancel_left,
    Nat.mul_div_cancel_left _ (by decide), decodeBankWord_bankNumber_mul_add q hi]

/-- The word that an offset of the bank area names, by its bank and its index (rule R34). -/
theorem exists_bankWord_of_bankArea {w off : Nat} (hlo : 0x100 ≤ off)
    (hhi : off < 0x100 + 24 * w) :
    ∃ q i, decodeOffset w off = .bankWord q i ∧ i < w ∧
      bankNumber q = (off - 0x100) / 4 / w ∧ i = (off - 0x100) / 4 % w := by
  have hw : 0 < w := by omega
  have hj : (off - 0x100) / 4 / w < 6 := Nat.div_lt_of_lt_mul (by omega)
  obtain ⟨q, hq⟩ := exists_bankNumber_eq hj
  refine ⟨q, (off - 0x100) / 4 % w, ?_, Nat.mod_lt _ hw, hq, rfl⟩
  rw [decodeOffset_of_bankArea hlo hhi, decodeBankWord_of_bankNumber_eq hq]

/-- Settles O29: both directions between offsets and bank words, and the six bank numbers. -/
theorem bankOffsetsAndWordsAgree : Obligations.BankOffsetsAndWordsAgree :=
  ⟨fun _ q _ hi => ⟨rfl, decodeOffset_bankOffset q hi⟩,
    fun _ _ hlo hhi _ => exists_bankWord_of_bankArea hlo hhi,
    rfl, rfl, rfl, rfl, rfl, rfl⟩

end Sys2Proof.Machine
end

section
/-! Proofs about the command words (rules R45, R46). -/

namespace Sys2Proof.Machine

/-- RSV is bits 31:4 of the command word (rule R45). -/
theorem extractLsb'_four_eq_zero_iff (w : Word) : w.extractLsb' 4 28 = 0 ↔ rsvField w = 0 := by
  have hw : w.toNat < 2 ^ 32 := w.isLt
  have hbits : (w.extractLsb' 4 28).toNat = rsvField w := by
    rw [BitVec.extractLsb'_toNat, Nat.shiftRight_eq_div_pow, rsvField]
    omega
  rw [← BitVec.toNat_inj, hbits]
  rfl

/-- OP is bits 3:0 of the command word (rule R45). -/
theorem toNat_extractLsb'_zero_eq_opField (w : Word) :
    (w.extractLsb' 0 4).toNat = opField w :=
  BitVec.extractLsb'_toNat 0 4 w

/-- The opcodes are the numbers 1 to 5 (rule R46). -/
theorem exists_eq_opcode_iff {n : Nat} : (∃ i, n = opcode i) ↔ 1 ≤ n ∧ n ≤ 5 := by
  constructor
  · rintro ⟨i, rfl⟩
    cases i <;> decide
  · rintro ⟨hlo, hhi⟩
    interval_cases n
    exacts [⟨.montmul, rfl⟩, ⟨.tomont, rfl⟩, ⟨.modexp, rfl⟩, ⟨.modinv, rfl⟩, ⟨.xgcd, rfl⟩]

/-- The number of a command's word is its opcode: its RSV is 0 (rule R46). -/
@[simp] theorem toNat_encode (i : Instr) : (encode i).toNat = opcode i := by
  cases i <;> rfl

/-- A word decodes to a command exactly when RSV = 0 and OP is that command's opcode (rule R46). -/
theorem decode_eq_ok_iff {w : Word} {i : Instr} :
    decode w = .ok i ↔ rsvField w = 0 ∧ opField w = opcode i := by
  unfold decode
  constructor
  · intro h
    split at h
    case isTrue => cases h
    case isFalse hrsv =>
      split at h <;> cases h <;> exact ⟨not_not.mp hrsv, ‹opField w = _›⟩
  · rintro ⟨hrsv, hop⟩
    rw [if_neg (not_not.mpr hrsv), hop]
    cases i <;> rfl

/-- A word is a command's word exactly when RSV = 0 and OP is that command's opcode (rule R46). -/
theorem eq_encode_iff {w : Word} {i : Instr} :
    w = encode i ↔ rsvField w = 0 ∧ opField w = opcode i := by
  have hop : 1 ≤ opcode i ∧ opcode i ≤ 5 := exists_eq_opcode_iff.mp ⟨i, rfl⟩
  rw [← BitVec.toNat_inj, toNat_encode, rsvField, opField]
  omega

/-- The decoder inverts the encoder, both ways (rule R46). -/
theorem decode_eq_ok_iff_eq_encode {w : Word} {i : Instr} : decode w = .ok i ↔ w = encode i :=
  decode_eq_ok_iff.trans eq_encode_iff.symm

/-- A word is a command exactly when RSV = 0 and OP is one of 1 to 5 (rule R46). -/
theorem exists_decode_eq_ok_iff {w : Word} :
    (∃ i, decode w = .ok i) ↔ rsvField w = 0 ∧ 1 ≤ opField w ∧ opField w ≤ 5 := by
  simp only [decode_eq_ok_iff, exists_and_left, exists_eq_opcode_iff]

/-- Settles O2: decoding to `i` and being the word of `i` are the same condition on RSV and OP, and
the opcodes are the numbers 1 to 5. -/
theorem commandWordsAreExactlyTheFiveEncodings :
    Obligations.CommandWordsAreExactlyTheFiveEncodings := by
  refine ⟨fun w => ?_, fun _ _ => decode_eq_ok_iff_eq_encode, rfl, rfl, rfl, rfl, rfl⟩
  rw [exists_decode_eq_ok_iff, extractLsb'_four_eq_zero_iff, toNat_extractLsb'_zero_eq_opField]

end Sys2Proof.Machine
end

section
/-! Proofs about the host's accesses (rules R53 to R58). -/

namespace Sys2Proof.Machine

/-- Taking a turn leaves the other turns and nothing else changed (rule R12). -/
theorem popTurn_of_cons {s : State} {u : Turn} {rest : List Turn} (h : s.agenda = u :: rest) :
    s.popTurn = { s with agenda := rest } := by
  rw [State.popTurn, h, List.tail_cons]

/-- An access of one word at an offset that is a multiple of 4 has a meaning (rules R32, R35). -/
theorem accessWf_base_add (c : Config) {off : Nat} (hal : off % 4 = 0) :
    accessWf c (c.base + off) 4 = true := by
  simp [accessWf, hal]

/-- A host write of one word at an aligned offset writes the register that the offset names
(rule R56). -/
theorem step_write_base_add {s : State} {off : Nat} {v : Word} {rest : List Turn}
    (h : s.agenda = .host (.write (s.cfg.base + off) 4 v) :: rest) (hal : off % 4 = 0) :
    step s =
      .next (State.writeReg { s with agenda := rest } (decodeOffset s.cfg.words off) v) := by
  have hexec : step s = execWrite (s.cfg.base + off) 4 v { s with agenda := rest } := by
    simp only [step, h, execHost, popTurn_of_cons h]
  rw [hexec]
  refine execWrite_next_iff.mpr ⟨accessWf_base_add s.cfg hal, ?_⟩
  rw [Nat.add_sub_cancel_left]

/-- A write to STATUS with bit 1 set is an ACK (rule R58). -/
theorem writeReg_status_of_bit {s : State} {v : Word} (h : v[1] = true) :
    s.writeReg .status v = s.clearDone :=
  if_pos h

/-- A write to STATUS with bit 1 clear does nothing (rule R58). -/
theorem writeReg_status_of_not_bit {s : State} {v : Word} (h : v[1] = false) :
    s.writeReg .status v = s :=
  if_neg (Bool.eq_false_iff.mp h)

/-- An ACK drops the interrupt output, whatever IE is (rules R26, R58). -/
@[simp] theorem State.clearDone_irq (s : State) : s.clearDone.irq = false :=
  Bool.and_false s.ie

/-- Settles O35: offset 4 names STATUS, whose write is an ACK exactly when bit 1 is set. -/
theorem ackClearsDoneAndNothingElse : Obligations.AckClearsDoneAndNothingElse := by
  intro s v rest h
  have hstep : step s = .next (State.writeReg { s with agenda := rest } .status v) :=
    step_write_base_add h rfl
  constructor
  · intro hbit
    rw [writeReg_status_of_bit hbit] at hstep
    exact ⟨_, hstep, State.clearDone_irq _, rfl⟩
  · intro hbit
    rwa [writeReg_status_of_not_bit hbit] at hstep

end Sys2Proof.Machine
end

section
/-! Proofs about the Montgomery kernel, commands MONTMUL and TOMONT (rules R64, R65). -/

namespace Sys2Proof.Machine

/-! ### Completions of any command, from its outcome -/

/-- A command whose outcome is an error changes STATUS alone (rules R59, R92). -/
theorem exec_of_outcome_err {i : Instr} {s : State} {e : ErrCode} (h : outcomeOf i s = .err e) :
    exec i s = .next { s with busy := false, done := true, err := e } := by
  rw [exec_eq, h, complete_err]

/-- A command whose outcome is one integer of at most K bits puts it in RES and changes nothing else
but STATUS (rule R59). -/
theorem exec_of_outcome_res {i : Instr} {s : State} {v : Nat}
    (h : outcomeOf i s = .ok { res := v, coeffs := none }) (hv : v < 2 ^ s.cfg.bits) :
    ∃ t, exec i s = .next t ∧
      t = { s with res := t.res, busy := false, done := true, err := .noError } ∧
      t.res.length = s.cfg.words ∧ t.resVal = v := by
  refine ⟨_, exec_eq i s, ?_⟩
  rw [h, complete_res]
  exact ⟨rfl, bankOfNat_length _ _, bankVal_bankOfNat hv⟩

/-- The modulus has at most K bits, so a value below it fits in RES (rule R14). -/
theorem State.BanksFit.opN_lt {s : State} (h : s.BanksFit) : s.opN < 2 ^ s.cfg.bits := by
  obtain ⟨-, -, hn, -⟩ := h
  rw [Config.bits_eq, ← hn]
  exact bankVal_lt s.n

/-! ### The outcomes of MONTMUL, in the order of its checks -/

theorem cmdMontmul_of_zero (k a b : Nat) {n : Nat} (hn : n = 0) :
    cmdMontmul k a b n = .err .modulusZero :=
  if_pos hn

theorem cmdMontmul_of_even (k a b : Nat) {n : Nat} (h0 : n ≠ 0) (hn : n % 2 = 0) :
    cmdMontmul k a b n = .err .modulusEven := by
  rw [cmdMontmul, if_neg h0, if_pos hn]

theorem cmdMontmul_of_range (k : Nat) {a b n : Nat} (hn : n % 2 = 1) (hab : n ≤ a ∨ n ≤ b) :
    cmdMontmul k a b n = .err .operandRange := by
  rw [cmdMontmul, if_neg (by omega), if_neg (by omega), if_pos hab]

theorem cmdMontmul_of_lt (k : Nat) {a b n : Nat} (hn : n % 2 = 1) (ha : a < n) (hb : b < n) :
    cmdMontmul k a b n = .ok { res := montProd k a b n, coeffs := none } := by
  rw [cmdMontmul, if_neg (by omega), if_neg (by omega), if_neg (by omega)]

/-! ### The outcomes of TOMONT, in the order of its checks -/

theorem cmdTomont_of_zero (k a : Nat) {n : Nat} (hn : n = 0) :
    cmdTomont k a n = .err .modulusZero :=
  if_pos hn

theorem cmdTomont_of_even (k a : Nat) {n : Nat} (h0 : n ≠ 0) (hn : n % 2 = 0) :
    cmdTomont k a n = .err .modulusEven := by
  rw [cmdTomont, if_neg h0, if_pos hn]

theorem cmdTomont_of_range (k : Nat) {a n : Nat} (hn : n % 2 = 1) (ha : n ≤ a) :
    cmdTomont k a n = .err .operandRange := by
  rw [cmdTomont, if_neg (by omega), if_neg (by omega), if_pos ha]

theorem cmdTomont_of_lt (k : Nat) {a n : Nat} (hn : n % 2 = 1) (ha : a < n) :
    cmdTomont k a n = .ok { res := montForm k a n, coeffs := none } := by
  rw [cmdTomont, if_neg (by omega), if_neg (by omega), if_neg (by omega)]

/-- The Montgomery form is below the modulus (rule R65). -/
theorem montForm_lt (k a : Nat) {n : Nat} (hn : 0 < n) : montForm k a n < n := Nat.mod_lt _ hn

/-- The Montgomery product is the only solution of its defining property below an odd modulus: the
factor 2^k can be cancelled (rule R64). -/
theorem eq_montProd {k a b n u : Nat} (hn : n % 2 = 1) (hu : u < n)
    (h : u * 2 ^ k % n = a * b % n) : u = montProd k a b n :=
  eq_of_mul_two_pow_mod_eq k hn hu (montProd_lt k a b (Nat.zero_lt_of_lt hu))
    (h.trans (montProd_spec k a b hn).symm)

/-! ### The two commands -/

/-- Settles O8: one outcome of MONTMUL per clause; in the last one RES is `montProd`, which fits
because it is below N, and which has the defining property and is the only such integer. -/
theorem montmulGivesTheMontgomeryProduct : Obligations.MontmulGivesTheMontgomeryProduct := by
  refine ⟨toNat_encode .montmul, fun s hinv => ⟨fun h0 => ?zero, fun h0 hn => ?even,
    fun hn hab => ?range, fun hn ha hb => ?product⟩⟩
  case zero => exact exec_of_outcome_err (cmdMontmul_of_zero _ _ _ h0)
  case even => exact exec_of_outcome_err (cmdMontmul_of_even _ _ _ h0 hn)
  case range => exact exec_of_outcome_err (cmdMontmul_of_range _ hn hab)
  case product =>
    obtain ⟨-, hfit, -⟩ := hinv
    have hlt : montProd s.cfg.bits s.opA s.opB s.opN < s.opN := montProd_lt _ _ _ (by omega)
    obtain ⟨t, hexec, hframe, hlen, hval⟩ :=
      exec_of_outcome_res (i := .montmul) (cmdMontmul_of_lt _ hn ha hb) (hlt.trans hfit.opN_lt)
    refine ⟨t, hexec, hframe, hlen, ?_⟩
    rw [hval]
    exact ⟨hlt, montProd_spec _ _ _ hn, fun u hu h => eq_montProd hn hu h⟩

/-- Settles O9: one outcome of TOMONT per clause; in the last one RES is `montForm`, which fits
because it is below N. B has no influence: no clause names it. -/
theorem tomontGivesTheMontgomeryForm : Obligations.TomontGivesTheMontgomeryForm := by
  refine ⟨toNat_encode .tomont, fun s hinv => ⟨fun h0 => ?zero, fun h0 hn => ?even,
    fun hn ha => ?range, fun hn ha => ?form⟩⟩
  case zero => exact exec_of_outcome_err (cmdTomont_of_zero _ _ h0)
  case even => exact exec_of_outcome_err (cmdTomont_of_even _ _ h0 hn)
  case range => exact exec_of_outcome_err (cmdTomont_of_range _ hn ha)
  case form =>
    obtain ⟨-, hfit, -⟩ := hinv
    have hlt : montForm s.cfg.bits s.opA s.opN < s.opN := montForm_lt _ _ (by omega)
    exact exec_of_outcome_res (cmdTomont_of_lt _ hn ha) (hlt.trans hfit.opN_lt)

end Sys2Proof.Machine
end

section
/-! Proofs about modular exponentiation, command MODEXP (rules R70, R71, R73). -/

namespace Sys2Proof.Machine

/-! ### The outcomes of MODEXP, in the order of its checks -/

theorem cmdModexp_of_zero (k a e : Nat) {n : Nat} (hn : n = 0) :
    cmdModexp k a e n = .err .modulusZero :=
  if_pos hn

theorem cmdModexp_of_even (k a e : Nat) {n : Nat} (h0 : n ≠ 0) (hn : n % 2 = 0) :
    cmdModexp k a e n = .err .modulusEven := by
  rw [cmdModexp, if_neg h0, if_pos hn]

/-- For an odd modulus the outcome is the remainder of the exact power, whatever the base. -/
theorem cmdModexp_of_odd {k e n : Nat} (a : Nat) (he : e < 2 ^ k) (hn : n % 2 = 1) :
    cmdModexp k a e n = .ok { res := a ^ e % n, coeffs := none } := by
  rw [cmdModexp, if_neg (by omega), if_neg (by omega), powMod_eq a n he]

/-! ### The command -/

/-- The exponent in B has at most K bits (rule R14). -/
theorem State.BanksFit.opB_lt {s : State} (h : s.BanksFit) : s.opB < 2 ^ s.cfg.bits := by
  obtain ⟨-, hb, -⟩ := h
  rw [Config.bits_eq, ← hb]
  exact bankVal_lt s.b

/-- MODEXP on an odd modulus completes with the power, for every A and B (rule R70): the exponent is
within the K steps of `powMod`, and the power's remainder fits in RES because it is below N. -/
theorem exec_modexp_of_odd {s : State} (hfit : s.BanksFit) (hn : s.opN % 2 = 1) :
    ∃ t, exec .modexp s = .next t ∧
      t = { s with res := t.res, busy := false, done := true, err := .noError } ∧
      t.res.length = s.cfg.words ∧ t.resVal = s.opA ^ s.opB % s.opN :=
  have hlt : s.opA ^ s.opB % s.opN < s.opN := Nat.mod_lt _ (by omega)
  exec_of_outcome_res (cmdModexp_of_odd s.opA hfit.opB_lt hn) (hlt.trans hfit.opN_lt)

/-- Settles O10: one outcome of MODEXP per clause; in the last one there is no condition on A or B. -/
theorem modexpGivesThePower : Obligations.ModexpGivesThePower := by
  refine ⟨toNat_encode .modexp, fun s hinv => ⟨fun h0 => ?zero, fun h0 hn => ?even,
    fun hn => ?power⟩⟩
  case zero => exact exec_of_outcome_err (cmdModexp_of_zero _ _ _ h0)
  case even => exact exec_of_outcome_err (cmdModexp_of_even _ _ _ h0 hn)
  case power =>
    obtain ⟨-, hfit, -⟩ := hinv
    exact exec_modexp_of_odd hfit hn

/-- Settles O11: MODEXP has no range check on A, and the base may be reduced before the power is taken
(`Nat.pow_mod`). -/
theorem modexpReducesALargeBase : Obligations.ModexpReducesALargeBase := by
  rintro s ⟨-, hfit, -⟩ hn -
  obtain ⟨t, hexec, hframe, -, hval⟩ := exec_modexp_of_odd hfit hn
  exact ⟨t, hexec, congrArg State.err hframe, hval, hval.trans (Nat.pow_mod _ _ _)⟩

/-- Settles O12: the power with exponent 0 is 1 for every base, so RES is 1 modulo N. -/
theorem modexpOfZeroExponentIsOne : Obligations.ModexpOfZeroExponentIsOne := by
  rintro s ⟨-, hfit, -⟩ hn hB
  obtain ⟨t, hexec, hframe, -, hval⟩ := exec_modexp_of_odd hfit hn
  have hone : t.resVal = 1 % s.opN := by rw [hval, hB, pow_zero]
  refine ⟨t, hexec, congrArg State.err hframe, fun h1 => ?above, fun h1 => ?equal⟩
  case above => rw [hone, Nat.mod_eq_of_lt h1]
  case equal => rw [hone, h1]

end Sys2Proof.Machine
end

section
/-! Proofs about the extended-GCD datapath, commands MODINV and XGCD (rules R77 to R82). -/

namespace Sys2Proof.Machine

/-! ### The outcomes of MODINV, in the order of its checks -/

theorem cmdModinv_of_modulus_zero (a : Nat) {n : Nat} (hn : n = 0) :
    cmdModinv a n = .err .modulusZero :=
  if_pos hn

theorem cmdModinv_of_operand_zero {a n : Nat} (hn : n ≠ 0) (ha : a = 0) :
    cmdModinv a n = .err .inverseUndefined := by
  rw [cmdModinv, if_neg hn, if_pos ha]

theorem cmdModinv_of_not_coprime {a n : Nat} (hn : n ≠ 0) (ha : a ≠ 0) (hg : Nat.gcd a n ≠ 1) :
    cmdModinv a n = .err .inverseUndefined := by
  rw [cmdModinv, if_neg hn, if_neg ha, xgcd_c3, if_pos hg]

theorem cmdModinv_of_coprime {a n : Nat} (hn : n ≠ 0) (ha : a ≠ 0) (hg : Nat.gcd a n = 1) :
    cmdModinv a n = .ok { res := ((xgcd a n).c1 % (n : Int)).toNat, coeffs := none } := by
  rw [cmdModinv, if_neg hn, if_neg ha, xgcd_c3, if_neg (not_not.mpr hg)]

/-! ### The value that MODINV writes -/

/-- The value MODINV writes, as an integer: taking the natural number of it loses nothing. -/
theorem natCast_toNat_xgcd_c1_mod (a : Nat) {n : Nat} (hn : n ≠ 0) :
    (((xgcd a n).c1 % (n : Int)).toNat : Int) = (xgcd a n).c1 % n :=
  Int.toNat_of_nonneg (Int.emod_nonneg _ (Int.natCast_ne_zero.mpr hn))

/-- The value MODINV writes is below the modulus (rule R82). -/
theorem toNat_xgcd_c1_mod_lt (a : Nat) {n : Nat} (hn : n ≠ 0) :
    ((xgcd a n).c1 % (n : Int)).toNat < n := by
  have hlt := Int.emod_lt_of_pos (xgcd a n).c1 (Int.natCast_pos.mpr (Nat.pos_of_ne_zero hn))
  rw [← natCast_toNat_xgcd_c1_mod a hn] at hlt
  exact_mod_cast hlt

/-- The value MODINV writes is an inverse of a modulo n: the term n*y of the Bézout relation vanishes
modulo n (rules R78, R82). -/
theorem mul_toNat_xgcd_c1_mod {a n : Nat} (hn : n ≠ 0) (hg : Nat.gcd a n = 1) :
    a * ((xgcd a n).c1 % (n : Int)).toNat % n = 1 % n := by
  have hbez : (a : Int) * (xgcd a n).c1 + n * (xgcd a n).c2 = 1 := by
    rw [xgcd_bezout, hg, Nat.cast_one]
  have hcast : (a : Int) * ((xgcd a n).c1 % (n : Int)).toNat % n = 1 % n :=
    calc (a : Int) * ((xgcd a n).c1 % (n : Int)).toNat % n
        = a * ((xgcd a n).c1 % n) % n := by rw [natCast_toNat_xgcd_c1_mod a hn]
      _ = a * (xgcd a n).c1 % n := (Int.mod_modEq _ _).mul_left _
      _ = (a * (xgcd a n).c1 + n * (xgcd a n).c2) % n := (Int.add_mul_emod_self_left _ _ _).symm
      _ = 1 % n := by rw [hbez]
  exact_mod_cast hcast

/-- Two inverses of a modulo n below n are equal: the factor a can be cancelled. -/
theorem eq_of_mul_mod_eq_of_coprime {a n t u : Nat} (hg : Nat.gcd a n = 1) (ht : t < n) (hu : u < n)
    (h : a * u % n = a * t % n) : u = t :=
  (Nat.ModEq.cancel_left_of_coprime (Nat.gcd_comm n a ▸ hg) h).eq_of_lt_of_lt hu ht

/-- Settles O13: one outcome of MODINV per clause; in the last one RES is the first Bézout coefficient
modulo N, which fits because it is below N, and which is the only inverse of A there. -/
theorem modinvGivesTheInverse : Obligations.ModinvGivesTheInverse := by
  refine ⟨toNat_encode .modinv, fun s hinv => ⟨fun hn => ?modulusZero, fun hn ha => ?operandZero,
    fun hn ha hg => ?notCoprime, fun hn ha hg => ?inverse⟩⟩
  case modulusZero => exact exec_of_outcome_err (cmdModinv_of_modulus_zero _ hn)
  case operandZero => exact exec_of_outcome_err (cmdModinv_of_operand_zero hn ha)
  case notCoprime => exact exec_of_outcome_err (cmdModinv_of_not_coprime hn ha hg)
  case inverse =>
    obtain ⟨-, hfit, -⟩ := hinv
    have hlt := toNat_xgcd_c1_mod_lt s.opA hn
    have hinverse := mul_toNat_xgcd_c1_mod hn hg
    obtain ⟨t, hexec, hframe, hlen, hval⟩ :=
      exec_of_outcome_res (i := .modinv) (cmdModinv_of_coprime hn ha hg) (hlt.trans hfit.opN_lt)
    refine ⟨t, hexec, hframe, hlen, ?_⟩
    rw [hval]
    exact ⟨hlt, hinverse,
      fun u hu h => eq_of_mul_mod_eq_of_coprime hg hlt hu (h.trans hinverse.symm)⟩

/-! ### The recursion of Xgcd (rule R77) -/

/-- The loop's result does not depend on the fuel, once the fuel is above v3 (rule R79). -/
theorem xgcdLoop_eq_of_lt_fuel {f g : Nat} {u v : Triple} (hf : v.c3 < f) (hg : v.c3 < g) :
    xgcdLoop f u v = xgcdLoop g u v := by
  induction f generalizing g u v with
  | zero => omega
  | succ f ih =>
    obtain ⟨g, rfl⟩ : ∃ g', g = g' + 1 := ⟨g - 1, by omega⟩
    rw [xgcdLoop, xgcdLoop]
    split
    case isTrue => rfl
    case isFalse hv =>
      have hlt : (tripleStep u v).c3 < v.c3 := by
        rw [tripleStep_c3]
        exact Nat.mod_lt _ (Nat.pos_of_ne_zero hv)
      exact ih (by omega) (by omega)

/-- A triple for the pair (b, a - q*b), as a triple for the pair (a, b): u1*b + u2*(a - q*b) is
u2*a + (u1 - q*u2)*b. -/
def Triple.liftBy (q : Nat) (u : Triple) : Triple :=
  { c1 := u.c2, c2 := u.c1 - q * u.c2, c3 := u.c3 }

@[simp] theorem Triple.liftBy_c3 (q : Nat) (u : Triple) : (u.liftBy q).c3 = u.c3 := rfl

/-- A step of the loop commutes with the change of pair: it is linear in the coefficients. -/
theorem tripleStep_liftBy (q : Nat) (u v : Triple) :
    tripleStep (u.liftBy q) (v.liftBy q) = (tripleStep u v).liftBy q := by
  simp only [tripleStep, Triple.liftBy, Triple.mk.injEq, true_and, and_true]
  ring

/-- The whole loop commutes with the change of pair. -/
theorem xgcdLoop_liftBy (q fuel : Nat) (u v : Triple) :
    xgcdLoop fuel (u.liftBy q) (v.liftBy q) = (xgcdLoop fuel u v).liftBy q := by
  induction fuel generalizing u v with
  | zero => rfl
  | succ fuel ih =>
    rw [xgcdLoop, xgcdLoop, Triple.liftBy_c3, tripleStep_liftBy, ih, apply_ite (Triple.liftBy q)]

/-- The first step on (a, b) gives the two triples from which the loop starts on (b, a mod b). -/
theorem tripleStep_initial (a b : Nat) :
    tripleStep ⟨1, 0, a⟩ ⟨0, 1, b⟩ = Triple.liftBy (a / b) ⟨0, 1, a % b⟩ := by
  have hc3 := tripleStep_c3 ⟨1, 0, a⟩ ⟨0, 1, b⟩
  simp only [tripleStep] at hc3
  simp [tripleStep, Triple.liftBy, hc3]

/-- For b = 0 the loop takes no step (rule R77). -/
theorem xgcd_zero (a : Nat) : xgcd a 0 = ⟨1, 0, a⟩ := rfl

/-- Xgcd by Euclid's recursion: the loop on (a, b) is one step and then the loop on (b, a mod b), in
the coefficients of a and b (rule R77). -/
theorem xgcd_eq_liftBy (a : Nat) {b : Nat} (hb : 0 < b) :
    xgcd a b = (xgcd b (a % b)).liftBy (a / b) := by
  have hlt : a % b < b := Nat.mod_lt a hb
  calc xgcd a b
      = xgcdLoop b ⟨0, 1, b⟩ (tripleStep ⟨1, 0, a⟩ ⟨0, 1, b⟩) := by
        rw [xgcd, xgcdLoop, if_neg hb.ne']
    _ = xgcdLoop b (Triple.liftBy (a / b) ⟨1, 0, b⟩) (Triple.liftBy (a / b) ⟨0, 1, a % b⟩) := by
        rw [tripleStep_initial]
        simp [Triple.liftBy]
    _ = (xgcdLoop b ⟨1, 0, b⟩ ⟨0, 1, a % b⟩).liftBy (a / b) := xgcdLoop_liftBy ..
    _ = (xgcd b (a % b)).liftBy (a / b) := by
        rw [xgcd, xgcdLoop_eq_of_lt_fuel hlt (Nat.lt_succ_self _)]

/-! ### The results of XGCD fit in their banks (rules R14, R19, R80) -/

/-- An admitted block has at least one word per bank (rule R6). -/
theorem Config.words_pos_of_wf {c : Config} (h : c.wf = true) : 0 < c.words := by
  rw [Config.wf, Bool.and_eq_true, decide_eq_true_eq] at h
  obtain ⟨hW, -⟩ := h
  exact Nat.pos_of_ne_zero fun h0 => hW (BitVec.eq_of_toNat_eq h0)

/-- The operand in A has at most K bits (rule R14). -/
theorem State.BanksFit.opA_lt {s : State} (h : s.BanksFit) : s.opA < 2 ^ s.cfg.bits := by
  obtain ⟨ha, -⟩ := h
  rw [Config.bits_eq, ← ha]
  exact bankVal_lt s.a

/-- What Xgcd returns fits in K bits when its two arguments do: the gcd is at most one of them, and
the coefficients are bounded by rule R80. -/
theorem xgcd_lt_two_pow {k a b : Nat} (hk : k ≠ 0) (ha : a < 2 ^ k) (hb : b < 2 ^ k) :
    (xgcd a b).c3 < 2 ^ k ∧ (xgcd a b).c1.natAbs < 2 ^ k ∧ (xgcd a b).c2.natAbs < 2 ^ k := by
  have hone : 1 < 2 ^ k := Nat.one_lt_two_pow hk
  obtain ⟨hx, hy⟩ := xgcd_coeff_le a b
  refine ⟨?_, hx.trans_lt (max_lt hone hb), hy.trans_lt (max_lt hone ha)⟩
  rw [xgcd_c3]
  rcases Nat.eq_zero_or_pos a with rfl | hpos
  · rwa [Nat.gcd_zero_left]
  · exact (Nat.gcd_le_left b hpos).trans_lt ha

/-- The sign bit and the magnitude taken from an integer represent it, when its magnitude fits
(rule R19). -/
theorem signedVal_bankOfNat_natAbs {w : Nat} {x : Int} (h : x.natAbs < 2 ^ (32 * w)) :
    signedVal (decide (x < 0)) (bankOfNat w x.natAbs) = x := by
  simp only [signedVal, bankVal_bankOfNat h, decide_eq_true_eq]
  split <;> omega

/-- A command whose outcome is an integer and two signed coefficients, all of at most K bits, puts
them in RES, X, Y and SIGNS and changes nothing else but STATUS (rules R19, R59). -/
theorem exec_of_outcome_coeffs {i : Instr} {s : State} {v : Nat} {x y : Int}
    (h : outcomeOf i s = .ok { res := v, coeffs := some (x, y) }) (hv : v < 2 ^ s.cfg.bits)
    (hx : x.natAbs < 2 ^ s.cfg.bits) (hy : y.natAbs < 2 ^ s.cfg.bits) :
    ∃ t, exec i s = .next t ∧
      t = { s with
        res := t.res, x := t.x, y := t.y, xneg := t.xneg, yneg := t.yneg
        busy := false, done := true, err := .noError } ∧
      t.res.length = s.cfg.words ∧ t.x.length = s.cfg.words ∧ t.y.length = s.cfg.words ∧
      t.resVal = v ∧ t.xVal = x ∧ t.yVal = y ∧
      (t.xneg = true ↔ t.xVal < 0) ∧ (t.yneg = true ↔ t.yVal < 0) := by
  have hxVal := signedVal_bankOfNat_natAbs hx
  have hyVal := signedVal_bankOfNat_natAbs hy
  refine ⟨_, exec_eq i s, ?_⟩
  rw [h, complete_coeffs]
  refine ⟨rfl, bankOfNat_length _ _, bankOfNat_length _ _, bankOfNat_length _ _,
    bankVal_bankOfNat hv, hxVal, hyVal, ?_, ?_⟩
  · rw [State.xVal, hxVal, decide_eq_true_eq]
  · rw [State.yVal, hyVal, decide_eq_true_eq]

/-- Settles O15: XGCD has one outcome, the triple of `xgcd`, and its three parts fit; the recursion is
the first step of the loop, whose other steps are those of the pair (b, a mod b). -/
theorem xgcdStoresThePairOfTheAlgorithm : Obligations.XgcdStoresThePairOfTheAlgorithm := by
  refine ⟨toNat_encode .xgcd, ?stored, xgcd_zero, fun a b hb => xgcd_eq_liftBy a hb⟩
  case stored =>
    rintro s ⟨hwf, hfit, -⟩
    have hbits : s.cfg.bits ≠ 0 := by
      have := Config.words_pos_of_wf hwf
      rw [Config.bits_eq]
      omega
    obtain ⟨hres, hx, hy⟩ := xgcd_lt_two_pow hbits hfit.opA_lt hfit.opB_lt
    exact exec_of_outcome_coeffs (i := .xgcd) rfl hres hx hy

end Sys2Proof.Machine
end

section
/-! Proofs about errors (rules R85 to R93). -/

namespace Sys2Proof.Machine

/-! ### The completion of the command in progress -/

/-- The outcome of the command in progress, whatever its word: ILLEGAL_COMMAND for a word that is no
command's, and otherwise the command's own outcome (rules R60 and R91). -/
def State.outcome (s : State) : CmdOutcome :=
  match decode s.cmd with
  | .ok i => outcomeOf i s
  | .error _ => .err .illegalCommand

/-- The engine's turn of a busy block is the completion step of its outcome (rule R59). -/
theorem step_of_busy {s : State} (he : s.EngineTurn) (hb : s.busy = true) :
    step s = .next (s.popTurn.complete s.popTurn.outcome) := by
  rw [step_engineTurn he, engineStep, State.popTurn_busy, if_pos hb, State.outcome]
  cases decode s.popTurn.cmd with
  | ok i => exact exec_eq i s.popTurn
  | error e => rfl

theorem State.outcome_of_eq_encode {s : State} {i : Instr} (h : s.cmd = encode i) :
    s.outcome = outcomeOf i s := by
  rw [State.outcome, decode_eq_ok_iff_eq_encode.mpr h]

theorem State.outcome_of_ne_encode {s : State} (h : ∀ i, s.cmd ≠ encode i) :
    s.outcome = .err .illegalCommand := by
  rw [State.outcome]
  cases hd : decode s.cmd with
  | ok i => exact absurd (decode_eq_ok_iff_eq_encode.mp hd) (h i)
  | error e => rfl

/-! ### Illegal words -/

/-- The three forms of an illegal word (rules R48 and R91) are the words of no command. -/
theorem ne_encode_of_illegal {w : Word}
    (h : w.extractLsb' 4 28 ≠ 0 ∨ w.extractLsb' 0 4 = 0 ∨ 6 ≤ (w.extractLsb' 0 4).toNat)
    (i : Instr) : w ≠ encode i := by
  intro hw
  obtain ⟨hrsv, hlo, hhi⟩ := exists_decode_eq_ok_iff.mp ⟨i, decode_eq_ok_iff_eq_encode.mpr hw⟩
  rw [← toNat_extractLsb'_zero_eq_opField] at hlo hhi
  rcases h with h | h | h
  · exact h ((extractLsb'_four_eq_zero_iff w).mpr hrsv)
  · rw [h] at hlo
    exact absurd hlo (by decide)
  · omega

/-- Settles O5: an illegal word is no command's, so the outcome is ILLEGAL_COMMAND without a look at
the banks, and an error completion writes STATUS alone. -/
theorem illegalWordCompletesWithIllegalCommand :
    Obligations.IllegalWordCompletesWithIllegalCommand := by
  intro s he hb hw
  have hout : s.popTurn.outcome = .err .illegalCommand :=
    State.outcome_of_ne_encode (ne_encode_of_illegal hw)
  rw [step_of_busy he hb, hout]
  rfl

/-! ### Error completions -/

/-- A completion that reports an error writes STATUS alone (rule R92): a successful one, which writes
the results, reports none. -/
theorem complete_eq_of_err_ne_noError {s : State} {o : CmdOutcome}
    (h : (s.complete o).err ≠ .noError) :
    s.complete o = { s with busy := false, done := true, err := (s.complete o).err } := by
  cases o with
  | ok r => exact absurd (State.finish_err _ _) h
  | err e => exact complete_err s e

/-- Settles O19: every completion, of a legal word or not, is that of one outcome, and the outcomes
that report an error write STATUS alone. -/
theorem errorCompletionChangesThreeFields : Obligations.ErrorCompletionChangesThreeFields := by
  intro s t he hb hstep herr
  rw [step_of_busy he hb] at hstep
  cases hstep
  exact complete_eq_of_err_ne_noError herr

/-! ### The error code of an outcome -/

/-- The code that the completion of an outcome reports (rule R59). -/
def CmdOutcome.code : CmdOutcome → ErrCode
  | .ok _ => .noError
  | .err e => e

@[simp] theorem CmdOutcome.code_ok (r : Writes) : (CmdOutcome.ok r).code = .noError := rfl
@[simp] theorem CmdOutcome.code_err (e : ErrCode) : (CmdOutcome.err e).code = e := rfl

@[simp] theorem State.complete_err_eq_code (s : State) (o : CmdOutcome) :
    (s.complete o).err = o.code := by
  cases o <;> rfl

/-- A command reports the code of its outcome (rules R59 and R60). -/
theorem err_eq_code_of_exec {i : Instr} {s t : State} (h : exec i s = .next t) :
    t.err = (outcomeOf i s).code := by
  rw [exec_eq] at h
  cases h
  exact State.complete_err_eq_code _ _

/-! ### The codes of the five commands, each in the order of its checks (rule R93) -/

theorem code_cmdMontmul (k a b n : Nat) :
    (cmdMontmul k a b n).code =
      if n = 0 then .modulusZero else if n % 2 = 0 then .modulusEven
      else if n ≤ a ∨ n ≤ b then .operandRange else .noError := by
  simp only [cmdMontmul, apply_ite CmdOutcome.code, CmdOutcome.code_err, CmdOutcome.code_ok]

theorem code_cmdTomont (k a n : Nat) :
    (cmdTomont k a n).code =
      if n = 0 then .modulusZero else if n % 2 = 0 then .modulusEven
      else if n ≤ a then .operandRange else .noError := by
  simp only [cmdTomont, apply_ite CmdOutcome.code, CmdOutcome.code_err, CmdOutcome.code_ok]

theorem code_cmdModexp (k a e n : Nat) :
    (cmdModexp k a e n).code =
      if n = 0 then .modulusZero else if n % 2 = 0 then .modulusEven else .noError := by
  simp only [cmdModexp, apply_ite CmdOutcome.code, CmdOutcome.code_err, CmdOutcome.code_ok]

/-- The two causes of INVERSE_UNDEFINED are checked one after the other, and the second is a condition
on the third component of `xgcd`, the gcd (rules R82, R87). -/
theorem code_cmdModinv (a n : Nat) :
    (cmdModinv a n).code =
      if n = 0 then .modulusZero
      else if a = 0 ∨ Nat.gcd a n ≠ 1 then .inverseUndefined else .noError := by
  simp only [cmdModinv, xgcd_c3, apply_ite CmdOutcome.code, CmdOutcome.code_err,
    CmdOutcome.code_ok, ite_or]

/-- No command's own checks report ILLEGAL_COMMAND (rule R93). -/
theorem code_outcomeOf_ne_illegalCommand (i : Instr) (s : State) :
    (outcomeOf i s).code ≠ .illegalCommand := by
  cases i with
  | montmul => rw [outcomeOf, code_cmdMontmul]; split_ifs <;> decide
  | tomont => rw [outcomeOf, code_cmdTomont]; split_ifs <;> decide
  | modexp => rw [outcomeOf, code_cmdModexp]; split_ifs <;> decide
  | modinv => rw [outcomeOf, code_cmdModinv]; split_ifs <;> decide
  | xgcd => rw [outcomeOf, cmdXgcd, CmdOutcome.code_ok]; decide

/-- ILLEGAL_COMMAND is the code of exactly the words that are no command's (rules R91 and R93). -/
theorem State.code_outcome_eq_illegalCommand_iff (s : State) :
    s.outcome.code = .illegalCommand ↔ ∀ i, s.cmd ≠ encode i := by
  constructor
  · intro hcode i hi
    rw [State.outcome_of_eq_encode hi] at hcode
    exact code_outcomeOf_ne_illegalCommand i s hcode
  · intro h
    rw [State.outcome_of_ne_encode h, CmdOutcome.code_err]

/-- Settles O18: the code of a command is that of its outcome, whose checks stand in the order of
rule R93; the illegal word is decided by the decoder, before any of them. -/
theorem errorCodeIsTheFirstInTheFixedOrder : Obligations.ErrorCodeIsTheFirstInTheFixedOrder := by
  refine ⟨fun s t h => ?montmul, fun s t h => ?tomont, fun s t h => ?modexp, fun s t h => ?modinv,
    fun s t h => ?xgcd, fun s t he hb h => ?illegal⟩
  case montmul => exact (err_eq_code_of_exec h).trans (code_cmdMontmul ..)
  case tomont => exact (err_eq_code_of_exec h).trans (code_cmdTomont ..)
  case modexp => exact (err_eq_code_of_exec h).trans (code_cmdModexp ..)
  case modinv => exact (err_eq_code_of_exec h).trans (code_cmdModinv ..)
  case xgcd => exact err_eq_code_of_exec h
  case illegal =>
    rw [step_of_busy he hb] at h
    cases h
    rw [State.complete_err_eq_code]
    exact s.popTurn.code_outcome_eq_illegalCommand_iff

end Sys2Proof.Machine
end

section
/-! Proofs about what a step can do, and about the invariant (rules R12, R14, R19, R31). -/

namespace Sys2Proof.Machine

/-! ### The seven things a step can do -/

/-- What a step from `s` to a next state can be: `step` sorted by its effect (`stepEvent_of_step`). A
write that has an effect is named with its offset and value and the conditions of rule R56. -/
inductive StepEvent (s : State) : State → Prop where
  /-- The engine's turn while idle, a read, or a write that is dropped (rules R27, R55, R56). -/
  | quiet (log : List Word) :
      StepEvent s { s with agenda := s.agenda.tail, readLog := log }
  /-- The completion of the command in progress (rule R59). -/
  | completion (turn : s.EngineTurn) (busy : s.busy = true) :
      StepEvent s (s.popTurn.complete s.popTurn.outcome)
  /-- START (rule R57). -/
  | start (v : Word) (rest : List Turn)
      (write : s.agenda = .host (.write s.cfg.base 4 v) :: rest) (idle : s.busy = false) :
      StepEvent s (s.popTurn.start v)
  /-- ACK (rule R58). -/
  | ack (v : Word) (rest : List Turn)
      (write : s.agenda = .host (.write (s.cfg.base + 0x004) 4 v) :: rest) (bit : v[1] = true) :
      StepEvent s s.popTurn.clearDone
  /-- A write to CTRL (rule R56). -/
  | enable (v : Word) (rest : List Turn)
      (write : s.agenda = .host (.write (s.cfg.base + 0x008) 4 v) :: rest) :
      StepEvent s (s.popTurn.setIe v[0])
  /-- A write to a word of an operand bank of an idle block (rule R56). -/
  | operandWord (off : Nat) (v : Word) (rest : List Turn) (q : BankId) (i : Nat)
      (write : s.agenda = .host (.write (s.cfg.base + off) 4 v) :: rest)
      (above : 0x100 ≤ off) (below : off < 0x100 + 12 * s.cfg.words)
      (operand : isOperandBank q = true) (idle : s.busy = false) :
      StepEvent s (s.popTurn.setBank q ((s.popTurn.bank q).set i v))
  /-- The reset input (rules R101, R102). -/
  | reset (turn : s.ResetTurn) : StepEvent s s.popTurn.resetInput

/-- Taking a turn changes the agenda alone: a quiet step that reads nothing. -/
theorem StepEvent.popTurn (s : State) : StepEvent s s.popTurn := .quiet s.readLog

/-! ### What an offset names, the other way -/

/-- The operand banks are those with numbers 0 to 2 (rules R14, R34). -/
theorem isOperandBank_iff (q : BankId) : isOperandBank q = true ↔ bankNumber q < 3 := by
  cases q <;> decide

/-- Every offset names a control register, a word of the bank area, or nothing (rules R33, R34). -/
theorem decodeOffset_cases (w off : Nat) :
    (off = 0x000 ∧ decodeOffset w off = .cmd) ∨ (off = 0x004 ∧ decodeOffset w off = .status) ∨
    (off = 0x008 ∧ decodeOffset w off = .ctrl) ∨ (off = 0x00C ∧ decodeOffset w off = .cap) ∨
    (off = 0x010 ∧ decodeOffset w off = .signs) ∨
    (0x100 ≤ off ∧ ∃ q i, bankNumber q = (off - 0x100) / 4 / w ∧ i < w ∧
      decodeOffset w off = .bankWord q i) ∨
    decodeOffset w off = .unused := by
  by_cases harea : 0x100 ≤ off ∧ off < 0x100 + 24 * w
  · obtain ⟨q, i, hword, hi, hq, -⟩ := exists_bankWord_of_bankArea harea.1 harea.2
    simp [harea.1, hword, hq, hi]
  · unfold decodeOffset
    split_ifs <;> simp_all

/-- CMD, STATUS and CTRL stand at one offset each (rule R33). -/
theorem offset_of_decodeOffset (w off : Nat) :
    (decodeOffset w off = .cmd → off = 0x000) ∧ (decodeOffset w off = .status → off = 0x004) ∧
      (decodeOffset w off = .ctrl → off = 0x008) := by
  rcases decodeOffset_cases w off with
    ⟨hoff, h⟩ | ⟨hoff, h⟩ | ⟨hoff, h⟩ | ⟨-, h⟩ | ⟨-, h⟩ | ⟨-, q, i, -, -, h⟩ | h <;>
    rw [h] <;> simp [*]

/-- The words of the operand banks are the first half of the bank area (rule R34). -/
theorem operandArea_of_decodeOffset_eq_bankWord {w off i : Nat} {q : BankId}
    (h : decodeOffset w off = .bankWord q i) (hq : isOperandBank q = true) :
    0x100 ≤ off ∧ off < 0x100 + 12 * w := by
  rw [isOperandBank_iff] at hq
  obtain ⟨hlo, hnum, hi⟩ : 0x100 ≤ off ∧ bankNumber q = (off - 0x100) / 4 / w ∧ i < w := by
    have := decodeOffset_cases w off
    simp_all
  rw [hnum, Nat.div_lt_iff_lt_mul (by omega)] at hq
  omega

/-! ### Every step is one of the seven -/

/-- What a host write can do (rule R56). -/
theorem stepEvent_write {s : State} {addr : Nat} {v : Word} {rest : List Turn}
    (hwrite : s.agenda = .host (.write addr 4 v) :: rest) (hwf : accessWf s.cfg addr 4 = true) :
    StepEvent s (s.popTurn.writeReg (decodeOffset s.cfg.words (addr - s.cfg.base)) v) := by
  obtain ⟨off, rfl⟩ : ∃ off, addr = s.cfg.base + off := by
    simp only [accessWf, Bool.and_eq_true, decide_eq_true_eq] at hwf
    exact ⟨addr - s.cfg.base, by omega⟩
  rw [Nat.add_sub_cancel_left]
  obtain ⟨hcmd, hstatus, hctrl⟩ := offset_of_decodeOffset s.cfg.words off
  rcases writeReg_cases s.popTurn (decodeOffset s.cfg.words off) v with
    he | ⟨hr, hb, he⟩ | ⟨hr, hbit, he⟩ | ⟨hr, he⟩ | ⟨q, i, hr, hq, hb, he⟩ <;> rw [he]
  · exact .popTurn s
  · obtain rfl := hcmd hr
    exact .start v rest hwrite hb
  · obtain rfl := hstatus hr
    exact .ack v rest hwrite hbit
  · obtain rfl := hctrl hr
    exact .enable v rest hwrite
  · obtain ⟨hlo, hhi⟩ := operandArea_of_decodeOffset_eq_bankWord hr hq
    exact .operandWord off v rest q i hwrite hlo hhi hq hb

/-- Every step that gives a next state is one of the seven events. -/
theorem stepEvent_of_step {s t : State} (h : step s = .next t) : StepEvent s t := by
  rcases step_cases h with ⟨-, -, rfl⟩ | ⟨he, hb, -⟩ | ⟨he, hb, -⟩ | ⟨addr, rest, -, -, rfl⟩ |
    ⟨addr, v, rest, hw, hwf, rfl⟩ | ⟨hr, rfl⟩
  · exact .popTurn s
  · rw [step_of_busy he hb] at h
    cases h
    exact .completion he hb
  · rw [step_of_busy he hb] at h
    cases h
    exact .completion he hb
  · exact .quiet _
  · exact stepEvent_write hw hwf
  · exact .reset hr

/-! ### The invariant -/

/-- The coefficients of an outcome fit in X and Y (rule R80). -/
def CmdOutcome.CoeffsFit (k : Nat) (o : CmdOutcome) : Prop :=
  ∀ (v : Nat) (x y : Int), o = .ok { res := v, coeffs := some (x, y) } →
    x.natAbs < 2 ^ k ∧ y.natAbs < 2 ^ k

/-- The width of the banks of an admitted block is not 0 (rule R6). -/
theorem Config.bits_ne_zero_of_wf {c : Config} (h : c.wf = true) : c.bits ≠ 0 := by
  have := Config.words_pos_of_wf h
  rw [Config.bits_eq]
  omega

/-- Only XGCD has coefficients, and they fit, because A and B do (rule R80). -/
theorem State.Inv.coeffsFit_outcome {s : State} (h : s.Inv) :
    s.outcome.CoeffsFit s.cfg.bits := by
  intro v x y ho
  by_cases hx : s.cmd = encode .xgcd
  · obtain ⟨hwf, hfit, -⟩ := h
    rw [State.outcome_of_eq_encode hx, outcomeOf, cmdXgcd] at ho
    cases ho
    exact (xgcd_lt_two_pow (Config.bits_ne_zero_of_wf hwf) hfit.opA_lt hfit.opB_lt).2
  · exfalso
    rw [State.outcome] at ho
    cases hd : decode s.cmd with
    | error e =>
      rw [hd] at ho
      cases ho
    | ok i =>
      rw [hd] at ho
      have hi : i ≠ .xgcd := by
        rintro rfl
        exact hx (decode_eq_ok_iff_eq_encode.mp hd)
      cases outcomeOf_coeffs ho hi

/-- The magnitude of a negative integer that fits is not 0 in its bank (rule R19). -/
theorem bankVal_ne_zero_of_neg {w : Nat} {x : Int} (hfit : x.natAbs < 2 ^ (32 * w)) (hx : x < 0) :
    bankVal (bankOfNat w x.natAbs) ≠ 0 := by
  rw [bankVal_bankOfNat hfit]
  omega

/-- A completion keeps the invariant: a sign bit it sets is that of a coefficient below 0, whose
magnitude is not cut off (rules R19, R59). -/
theorem State.Inv.complete {s : State} {o : CmdOutcome} (h : s.Inv) (ho : o.CoeffsFit s.cfg.bits) :
    (s.complete o).Inv := by
  obtain ⟨hwf, hfit, -, -, hx, hy⟩ := h
  have hbanks := banksFit_complete o hfit
  rcases o with ⟨v, _ | ⟨x, y⟩⟩ | e
  · exact ⟨hwf, hbanks, fun hb => Bool.false_ne_true hb.1, fun _ => rfl, hx, hy⟩
  · obtain ⟨hxfit, hyfit⟩ := ho v x y rfl
    exact ⟨hwf, hbanks, fun hb => Bool.false_ne_true hb.1, fun _ => rfl,
      fun hneg => bankVal_ne_zero_of_neg hxfit (of_decide_eq_true hneg),
      fun hneg => bankVal_ne_zero_of_neg hyfit (of_decide_eq_true hneg)⟩
  · exact ⟨hwf, hbanks, fun hb => Bool.false_ne_true hb.1, fun hb => absurd hb Bool.false_ne_true,
      hx, hy⟩

/-- Each of the seven events keeps the invariant. -/
theorem State.Inv.stepEvent {s t : State} (h : s.Inv) (hev : StepEvent s t) : t.Inv := by
  have hpop : s.popTurn.Inv := h
  obtain ⟨hwf, hfit, hbd, herr, hx, hy⟩ := h
  cases hev with
  | quiet log => exact hpop
  | completion turn busy => exact hpop.complete hpop.coeffsFit_outcome
  | start v rest => exact ⟨hwf, hfit, fun hb => Bool.false_ne_true hb.2, fun _ => rfl, hx, hy⟩
  | ack v rest => exact ⟨hwf, hfit, fun hb => Bool.false_ne_true hb.2, herr, hx, hy⟩
  | enable v rest => exact hpop
  | operandWord off v rest q i _ _ _ operand =>
    have hbanks := banksFit_setWord (s := s.popTurn) q i v hfit
    cases q with
    | a | b | n => exact ⟨hwf, hbanks, hbd, herr, hx, hy⟩
    | res | x | y => cases operand
  | reset turn =>
    exact ⟨hwf, banksFit_resetInput s.popTurn, fun hb => Bool.false_ne_true hb.1, fun _ => rfl,
      fun hneg => absurd hneg Bool.false_ne_true, fun hneg => absurd hneg Bool.false_ne_true⟩

/-- Settles O46: a step is one of the seven events, and each keeps the invariant; the sign clause of a
completion rests on the bound of the coefficients. -/
theorem everyStepKeepsTheInvariant : Obligations.EveryStepKeepsTheInvariant :=
  fun _ _ hinv hstep => hinv.stepEvent (stepEvent_of_step hstep)

/-- The invariant holds in the state after reset, for admitted parameters (rule R30). -/
theorem inv_resetWith {c : Config} (h : c.wf = true) : (State.resetWith c).Inv := by
  refine ⟨h, banksFit_resetWith c, ?_, ?_, ?_, ?_⟩ <;> simp [State.resetWith]

/-- Settles O45: with all flags 0 the clauses about flags and signs ask nothing. -/
theorem invariantHoldsAfterReset : Obligations.InvariantHoldsAfterReset :=
  ⟨inv_resetWith (by decide), fun _ => inv_resetWith⟩

end Sys2Proof.Machine
end

section
/-! Proofs about what no step changes, or only some step does (rules R6, R25, R31, R57 to R59, R94). -/

namespace Sys2Proof.Machine

/-! ### What a completion and an operand write leave unchanged -/

@[simp] theorem State.complete_cfg (s : State) (o : CmdOutcome) : (s.complete o).cfg = s.cfg := by
  rw [complete_frame]

@[simp] theorem State.complete_a (s : State) (o : CmdOutcome) : (s.complete o).a = s.a := by
  rw [complete_frame]

@[simp] theorem State.complete_b (s : State) (o : CmdOutcome) : (s.complete o).b = s.b := by
  rw [complete_frame]

@[simp] theorem State.complete_n (s : State) (o : CmdOutcome) : (s.complete o).n = s.n := by
  rw [complete_frame]

@[simp] theorem State.complete_busy (s : State) (o : CmdOutcome) : (s.complete o).busy = false := by
  rw [complete_frame]

@[simp] theorem State.complete_done (s : State) (o : CmdOutcome) : (s.complete o).done = true := by
  rw [complete_frame]

@[simp] theorem State.complete_ie (s : State) (o : CmdOutcome) : (s.complete o).ie = s.ie := by
  rw [complete_frame]

/-- A completion that changes a result bank or SIGNS reports no error (rules R59, R92). -/
theorem complete_err_eq_noError_of_results_ne {s : State} {o : CmdOutcome}
    (h : (s.complete o).res ≠ s.res ∨ (s.complete o).x ≠ s.x ∨ (s.complete o).y ≠ s.y ∨
      (s.complete o).xneg ≠ s.xneg ∨ (s.complete o).yneg ≠ s.yneg) :
    (s.complete o).err = .noError := by
  by_contra herr
  rw [complete_eq_of_err_ne_noError herr] at h
  simp at h

/-- Replacing an operand bank leaves all but the operand banks unchanged (rule R14). -/
theorem setBank_frame {q : BankId} (hq : isOperandBank q = true) (s : State) (v : Bank) :
    s.setBank q v = { s with
      a := (s.setBank q v).a, b := (s.setBank q v).b, n := (s.setBank q v).n } := by
  cases q with
  | a | b | n => rfl
  | res | x | y => cases hq

/-! ### Parameters, operands and results -/

/-- Settles O47: no event writes the parameters. -/
theorem parametersNeverChange : Obligations.ParametersNeverChange := by
  intro s t hstep
  cases stepEvent_of_step hstep with
  | operandWord off v rest q i => exact State.setBank_cfg ..
  | completion => exact State.complete_cfg ..
  | quiet | start | ack | enable | reset => rfl

/-- Settles O48: of the seven events, only an operand write and a reset touch A, B or N. -/
theorem operandsChangeOnlyByAHostWriteWhileIdle :
    Obligations.OperandsChangeOnlyByAHostWriteWhileIdle := by
  intro s t hstep hne
  cases stepEvent_of_step hstep with
  | operandWord off v rest q i write above below operand idle =>
    exact .inr ⟨idle, off, v, rest, write, above, below⟩
  | reset turn => exact .inl turn
  | completion | quiet | start | ack | enable => simp at hne

/-- Settles O49: of the seven events, only a completion and a reset touch the results, and an error
completion leaves them. -/
theorem resultsChangeOnlyInACompletion : Obligations.ResultsChangeOnlyInACompletion := by
  intro s t hstep hne
  cases stepEvent_of_step hstep with
  | completion turn busy =>
    exact .inr ⟨turn, busy, State.complete_busy _ _, State.complete_done _ _,
      complete_err_eq_noError_of_results_ne hne⟩
  | reset turn => exact .inl turn
  | operandWord off v rest q i write above below operand =>
    rw [setBank_frame operand] at hne
    simp at hne
  | quiet | start | ack | enable => simp at hne

/-- Settles O50: an idle block has no completion, and of the other events only START and reset touch
the results, ERR or BUSY. -/
theorem resultsStayUntilTheNextStartOrReset : Obligations.ResultsStayUntilTheNextStartOrReset := by
  rintro s ⟨-, -, hbd, -⟩
  refine ⟨fun hd => Bool.eq_false_iff.mpr fun hb => hbd ⟨hb, hd⟩, fun hb hnr t hstep => ?_⟩
  cases stepEvent_of_step hstep with
  | completion turn busy => exact absurd busy (Bool.eq_false_iff.mp hb)
  | reset turn => exact absurd turn hnr
  | start v rest write => exact ⟨rfl, rfl, rfl, rfl, rfl, .inr ⟨v, rest, write⟩⟩
  | operandWord off v rest q i write above below operand =>
    rw [setBank_frame operand]
    exact ⟨rfl, rfl, rfl, rfl, rfl, .inl ⟨rfl, hb⟩⟩
  | quiet | ack | enable => exact ⟨rfl, rfl, rfl, rfl, rfl, .inl ⟨rfl, hb⟩⟩

/-! ### BUSY and the interrupt output -/

/-- Settles O51: BUSY is set by START alone and cleared by the completion and the reset alone. -/
theorem busyChangesOnlyByStartCompletionAndReset :
    Obligations.BusyChangesOnlyByStartCompletionAndReset := by
  intro s t hstep
  cases stepEvent_of_step hstep with
  | completion turn busy =>
    exact ⟨fun _ _ => .inr ⟨turn, State.complete_done _ _⟩, fun _ h => by simp at h⟩
  | reset turn => exact ⟨fun _ _ => .inl turn, fun _ h => by simp at h⟩
  | start v rest write => exact ⟨fun _ h => by simp at h, fun _ _ => ⟨v, rest, write, rfl⟩⟩
  | operandWord | quiet | ack | enable => constructor <;> simp_all

/-- A completion leaves irq at the level of IE (rules R26, R59). -/
@[simp] theorem State.complete_irq (s : State) (o : CmdOutcome) : (s.complete o).irq = s.ie := by
  rw [State.irq, State.complete_ie, State.complete_done, Bool.and_true]

/-- START drops irq, whatever IE is (rules R26, R57). -/
@[simp] theorem State.start_irq (s : State) (v : Word) : (s.start v).irq = false :=
  Bool.and_false s.ie

/-- The reset input drops irq (rule R102). -/
@[simp] theorem State.resetInput_irq (s : State) : s.resetInput.irq = false := rfl

/-- A write to CTRL sets irq to DONE or to 0 (rules R26, R56). -/
@[simp] theorem State.setIe_irq (s : State) (v : Bool) : (s.setIe v).irq = (v && s.done) := rfl

/-- Replacing a bank leaves irq. -/
@[simp] theorem State.setBank_irq (s : State) (q : BankId) (v : Bank) :
    (s.setBank q v).irq = s.irq := by
  rw [State.irq, State.setBank_ie, State.setBank_done, State.irq]

/-- Taking a turn leaves irq. -/
@[simp] theorem State.popTurn_irq (s : State) : s.popTurn.irq = s.irq := rfl

/-- Settles O42: the level of irq after each of the seven events; the completion leaves it at IE, a
write to CTRL leaves it at DONE or 0, and START, ACK and reset leave it 0. -/
theorem irqChangesOnlyWhereTheRuleSays : Obligations.IrqChangesOnlyWhereTheRuleSays := by
  intro s t _ hstep
  cases stepEvent_of_step hstep with
  | quiet log =>
    exact ⟨fun h h' => absurd (h.symm.trans h') (by decide),
      fun h h' => absurd (h.symm.trans h') (by decide)⟩
  | operandWord off v rest q i => constructor <;> simp_all
  | completion turn busy => exact ⟨by simp_all, fun _ h => .inl ⟨turn, busy, by simpa using h⟩⟩
  | start v rest write => exact ⟨fun _ _ => .inr ⟨0x000, v, rest, write, .inl rfl⟩, by simp⟩
  | ack v rest write bit =>
    exact ⟨fun _ _ => .inr ⟨0x004, v, rest, write, .inr (.inl ⟨rfl, bit⟩)⟩, by simp⟩
  | enable v rest write =>
    refine ⟨fun h h' => .inr ⟨0x008, v, rest, write, .inr (.inr ⟨rfl, ?falls⟩)⟩,
      fun _ h' => .inr ⟨v, rest, write, ?rises⟩⟩
    case falls =>
      obtain ⟨-, hd⟩ := s.irq_eq_true_iff.mp h
      rwa [State.setIe_irq, State.popTurn_done, hd, Bool.and_true] at h'
    case rises => rwa [State.setIe_irq, Bool.and_eq_true] at h'
  | reset turn => exact ⟨fun _ _ => .inl turn, by simp⟩

end Sys2Proof.Machine
end

section
/-! Proofs about the engine's turn, the completions and the reset (rules R28, R30, R46, R47, R57 to
R61, R101, R102). -/

namespace Sys2Proof.Machine

/-! ### Command words -/

/-- Settles O1: eleven literal words, decoded by evaluation. -/
theorem decodeOfSampleCommandWords : Obligations.DecodeOfSampleCommandWords := by
  unfold Obligations.DecodeOfSampleCommandWords
  decide

/-- A command's word has no bit above bit 31 to lose. -/
@[simp] theorem tableWord_toNat (w : Word) : tableWord 32 w.toNat = w := by
  rw [tableWord, Nat.mod_eq_of_lt w.isLt, BitVec.ofNat_toNat, BitVec.setWidth_eq]

/-! ### The engine's turn -/

/-- An engine's turn of a busy block with a command's word in CMD runs that command (rules R59, R60). -/
theorem step_of_busy_of_decode {s : State} {i : Instr} (he : s.EngineTurn) (hb : s.busy = true)
    (hd : decode s.cmd = .ok i) : step s = exec i s.popTurn := by
  have hcmd : s.popTurn.cmd = encode i := decode_eq_ok_iff_eq_encode.mp hd
  rw [step_of_busy he hb, State.outcome_of_eq_encode hcmd, exec_eq]

/-- An engine's turn of an idle block only takes the turn (rule R27, log entry 10). -/
theorem step_of_idle {s : State} (he : s.EngineTurn) (hb : s.busy = false) :
    step s = .next s.popTurn := by
  rw [step_engineTurn he, engineStep, State.popTurn_busy, if_neg (Bool.eq_false_iff.mp hb)]

/-- Settles O3: both forms of the engine's turn run the command, on the state whose turn is taken. -/
theorem engineStepRunsTheDecodedCommand : Obligations.EngineStepRunsTheDecodedCommand := by
  refine fun s i hb hd => ⟨fun hnil => ?_, fun rest hcons => ?_⟩
  · rw [step_of_busy_of_decode (.inl hnil) hb hd, popTurn_of_nil hnil]
  · have he : s.EngineTurn := .inr (congrArg List.head? hcons)
    rw [step_of_busy_of_decode he hb hd, popTurn_of_cons hcons]

/-- With a word placed, the engine moves next (log entry 6). -/
theorem engineTurn_withFetchWord (s : State) (nbits w : Nat) :
    (s.withFetchWord nbits w).EngineTurn := by
  cases ha : s.agenda with
  | nil => exact .inl (by simp [State.withFetchWord, ha])
  | cons u rest => exact .inr (by simp [State.withFetchWord, ha])

/-- Taking the turn that withFetchWord puts before the others leaves the word accepted as START
does (rule R57, log entry 6). -/
theorem popTurn_withFetchWord (s : State) (nbits w : Nat) :
    (s.withFetchWord nbits w).popTurn = s.start (tableWord nbits w) := by
  cases ha : s.agenda <;> simp [State.withFetchWord, State.popTurn, State.start, ha]

/-- Settles O4: the engine's turn comes next, with the command's word in CMD of a busy block. -/
theorem fetchedCommandWordRunsNext : Obligations.FetchedCommandWordRunsNext := by
  intro s i
  have hdecode : decode (s.withFetchWord 32 (encode i).toNat).cmd = .ok i :=
    decode_eq_ok_iff_eq_encode.mpr (tableWord_toNat (encode i))
  rw [step_of_busy_of_decode (engineTurn_withFetchWord ..) rfl hdecode, popTurn_withFetchWord,
    tableWord_toNat]
  rfl

/-- Settles O6: the engine's only step is the completion, which needs BUSY. -/
theorem idleEngineTurnChangesNothing : Obligations.IdleEngineTurnChangesNothing :=
  fun _ he hb => step_of_idle he hb

/-- Settles O7: the engine's turn is the completion of the command's outcome, whatever it is. -/
theorem everyCommandCompletesAtTheEngineTurn : Obligations.EveryCommandCompletesAtTheEngineTurn :=
  fun s he hb => ⟨_, step_of_busy he hb, State.complete_busy _ _, State.complete_done _ _,
    State.complete_irq _ _, complete_frame s.popTurn s.popTurn.outcome⟩

/-! ### What the commands read and write -/

/-- A completion without coefficients leaves X, Y and SIGNS (rule R59). -/
theorem complete_coeffs_frame {o : CmdOutcome} (ho : ∀ r, o = .ok r → r.coeffs = none) (s : State) :
    (s.complete o).x = s.x ∧ (s.complete o).y = s.y ∧
      (s.complete o).xneg = s.xneg ∧ (s.complete o).yneg = s.yneg := by
  rcases o with ⟨v, _ | c⟩ | e
  · exact ⟨rfl, rfl, rfl, rfl⟩
  · cases ho _ rfl
  · exact ⟨rfl, rfl, rfl, rfl⟩

/-- Settles O20: the frame of a completion, and that only XGCD's outcome has coefficients. -/
theorem commandsWriteOnlyTheirBanks : Obligations.CommandsWriteOnlyTheirBanks := by
  intro i s t hexec
  rw [exec_eq] at hexec
  cases hexec
  refine ⟨?_, fun hi => complete_coeffs_frame (fun _ ho => outcomeOf_coeffs ho hi) s⟩
  rw [complete_frame]
  exact ⟨rfl, rfl, rfl, rfl, rfl, rfl, rfl, rfl, rfl⟩

/-- The outcome of a command is a function of W and of the banks that rule R47 says it reads. -/
theorem outcomeOf_congr {i : Instr} {s s' : State} (hW : s.cfg.capW = s'.cfg.capW) (hA : s.a = s'.a)
    (hB : i = .montmul ∨ i = .modexp ∨ i = .xgcd → s.b = s'.b) (hN : i ≠ .xgcd → s.n = s'.n) :
    outcomeOf i s = outcomeOf i s' := by
  have hbits : s.cfg.bits = s'.cfg.bits := by rw [Config.bits, Config.words, hW]; rfl
  have hopA : s.opA = s'.opA := congrArg bankVal hA
  have hopB : _ → s.opB = s'.opB := fun h => congrArg bankVal (hB h)
  have hopN : _ → s.opN = s'.opN := fun h => congrArg bankVal (hN h)
  cases i with
  | montmul => simp only [outcomeOf, hbits, hopA, hopB (by decide), hopN (by decide)]
  | tomont => simp only [outcomeOf, hbits, hopA, hopN (by decide)]
  | modexp => simp only [outcomeOf, hbits, hopA, hopB (by decide), hopN (by decide)]
  | modinv => simp only [outcomeOf, hopA, hopN (by decide)]
  | xgcd => simp only [outcomeOf, hopA, hopB (by decide)]

/-- No error of a command has the code of success (rule R86). -/
theorem err_ne_noError_of_outcomeOf {i : Instr} {s : State} {e : ErrCode}
    (h : outcomeOf i s = .err e) : e ≠ .noError := by
  cases i with
  | montmul => simp only [outcomeOf, cmdMontmul] at h; split_ifs at h <;> cases h <;> decide
  | tomont => simp only [outcomeOf, cmdTomont] at h; split_ifs at h <;> cases h <;> decide
  | modexp => simp only [outcomeOf, cmdModexp] at h; split_ifs at h <;> cases h <;> decide
  | modinv => simp only [outcomeOf, cmdModinv] at h; split_ifs at h <;> cases h <;> decide
  | xgcd => cases h

/-- What a successful completion writes to RES depends on W and the outcome alone (rule R59). -/
theorem complete_res_congr {s s' : State} {r : Writes} (hW : s.cfg.words = s'.cfg.words) :
    (s.complete (.ok r)).res = (s'.complete (.ok r)).res := by
  rcases r with ⟨v, _ | ⟨x, y⟩⟩ <;> exact congrArg (bankOfNat · v) hW

/-- What XGCD's completion writes to X, Y and SIGNS depends on W and the outcome alone (rule R59). -/
theorem complete_coeffs_congr {s s' : State} (v : Nat) (x y : Int)
    (hW : s.cfg.words = s'.cfg.words) :
    (s.complete (.ok ⟨v, some (x, y)⟩)).x = (s'.complete (.ok ⟨v, some (x, y)⟩)).x ∧
    (s.complete (.ok ⟨v, some (x, y)⟩)).y = (s'.complete (.ok ⟨v, some (x, y)⟩)).y ∧
    (s.complete (.ok ⟨v, some (x, y)⟩)).xneg = (s'.complete (.ok ⟨v, some (x, y)⟩)).xneg ∧
    (s.complete (.ok ⟨v, some (x, y)⟩)).yneg = (s'.complete (.ok ⟨v, some (x, y)⟩)).yneg :=
  ⟨congrArg (bankOfNat · x.natAbs) hW, congrArg (bankOfNat · y.natAbs) hW, rfl, rfl⟩

/-- Settles O21: the two runs have one outcome, and what a completion writes is that outcome in W
words. -/
theorem resultsDependOnlyOnTheBanksRead : Obligations.ResultsDependOnlyOnTheBanksRead := by
  intro i s s' t t' hW hA hB hN hexec hexec'
  rw [exec_eq] at hexec hexec'
  cases hexec
  cases hexec'
  have hwords : s.cfg.words = s'.cfg.words := congrArg BitVec.toNat hW
  rw [outcomeOf_congr hW hA hB hN] at *
  refine ⟨by rw [State.complete_err_eq_code, State.complete_err_eq_code], fun herr => ⟨?_, ?_⟩⟩
  · cases ho : outcomeOf i s' with
    | ok r => exact complete_res_congr hwords
    | err e =>
      rw [ho, State.complete_err_eq_code] at herr
      exact absurd herr (err_ne_noError_of_outcomeOf ho)
  · rintro rfl
    exact complete_coeffs_congr _ _ _ hwords

/-! ### Reset -/

/-- The reset turn (rule R101). -/
theorem step_resetTurn {s : State} (h : s.ResetTurn) : step s = .next s.popTurn.resetInput := by
  obtain ⟨rest, ha⟩ := List.head?_eq_some_iff.mp h
  simp only [step, ha]

/-- Settles O44: the reset input writes every field that the rule names. -/
theorem resetInputLeavesTheControlStateOfReset :
    Obligations.ResetInputLeavesTheControlStateOfReset :=
  fun s h => ⟨_, step_resetTurn h, rfl, rfl, rfl, rfl, rfl, rfl, rfl, rfl, rfl,
    banksFit_resetInput s.popTurn, rfl, rfl⟩

end Sys2Proof.Machine
end

section
/-! Proofs about the registers and the host's single accesses (rules R20 to R25, R33 to R37, R55 to
R57, R86). -/

namespace Sys2Proof.Machine

/-! ### The register words -/

/-- An error code is a number of four bits (rule R86). -/
theorem ErrCode.code_lt (e : ErrCode) : e.code < 16 := by
  cases e <;> decide

/-- The fields of STATUS as a number: nothing is cut off (rule R22). -/
theorem State.statusWord_toNat (s : State) :
    s.statusWord.toNat = s.busy.toNat + 2 * s.done.toNat + 16 * s.err.code := by
  have hbusy := s.busy.toNat_le
  have hdone := s.done.toNat_le
  have herr := s.err.code_lt
  rw [State.statusWord, BitVec.toNat_ofNat]
  omega

/-- CTRL as a number (rule R23). -/
theorem State.ctrlWord_toNat (s : State) : s.ctrlWord.toNat = s.ie.toNat := by
  have hie := s.ie.toNat_le
  rw [State.ctrlWord, BitVec.toNat_ofNat]
  omega

/-- W is a number of 16 bits, so CAP holds it (rule R25). -/
theorem State.capWord_toNat (s : State) : s.capWord.toNat = s.cfg.words := by
  have hW : s.cfg.words < 2 ^ 16 := s.cfg.capW.isLt
  rw [State.capWord, BitVec.toNat_ofNat]
  omega

/-- The fields of SIGNS as a number (rule R20). -/
theorem State.signsWord_toNat (s : State) :
    s.signsWord.toNat = s.xneg.toNat + 2 * s.yneg.toNat := by
  have hx := s.xneg.toNat_le
  have hy := s.yneg.toNat_le
  rw [State.signsWord, BitVec.toNat_ofNat]
  omega

/-- A bit of a word, from the word's number. -/
theorem getElem_eq_of_toNat {w : Word} {i : Nat} (hi : i < 32) {b : Bool}
    (h : w.toNat / 2 ^ i % 2 = b.toNat) : w[i] = b := by
  rw [BitVec.getElem_eq_testBit_toNat, Nat.testBit_eq_decide_div_mod_eq, h]
  cases b <;> rfl

/-- A field of a word as a number. -/
theorem toNat_extractLsb' (w : Word) (i n : Nat) :
    (w.extractLsb' i n).toNat = w.toNat / 2 ^ i % 2 ^ n := by
  rw [BitVec.extractLsb'_toNat, Nat.shiftRight_eq_div_pow]

/-- A field of a word is 0 when its number is. -/
theorem extractLsb'_eq_zero {w : Word} {i n : Nat} (h : w.toNat / 2 ^ i % 2 ^ n = 0) :
    w.extractLsb' i n = 0 :=
  BitVec.eq_of_toNat_eq (((toNat_extractLsb' w i n).trans h).trans BitVec.toNat_zero.symm)

/-- Settles O28: each register word as a number gives its fields by division and remainder. -/
theorem registerWordsHaveTheirFields : Obligations.RegisterWordsHaveTheirFields := by
  refine ⟨fun s => ?_, rfl, rfl, rfl, rfl, rfl, rfl⟩
  have hstatus := s.statusWord_toNat
  have hctrl := s.ctrlWord_toNat
  have hcap := s.capWord_toNat
  have hsigns := s.signsWord_toNat
  have hbusy := s.busy.toNat_le
  have hdone := s.done.toNat_le
  have herr := s.err.code_lt
  have hie := s.ie.toNat_le
  have hW : s.cfg.words < 2 ^ 16 := s.cfg.capW.isLt
  have hx := s.xneg.toNat_le
  have hy := s.yneg.toNat_le
  refine ⟨getElem_eq_of_toNat _ ?_, getElem_eq_of_toNat _ ?_, ?err, extractLsb'_eq_zero ?_,
    extractLsb'_eq_zero ?_, getElem_eq_of_toNat _ ?_, extractLsb'_eq_zero ?_, ?capW,
    extractLsb'_eq_zero ?_, getElem_eq_of_toNat _ ?_, getElem_eq_of_toNat _ ?_,
    extractLsb'_eq_zero ?_⟩
  case err =>
    rw [toNat_extractLsb']
    omega
  case capW =>
    apply BitVec.eq_of_toNat_eq
    rw [toNat_extractLsb', hcap, pow_zero, Nat.div_one, Nat.mod_eq_of_lt hW]
    rfl
  all_goals omega

/-- Settles O43: after reset every field of the control registers is 0 but CAP.W. -/
theorem resetStateHasTheResetValues : Obligations.ResetStateHasTheResetValues :=
  fun c => ⟨rfl, rfl, rfl, rfl, rfl, State.capWord_toNat (State.resetWith c), rfl⟩

/-! ### What each offset names -/

/-- A reserved offset names nothing (rules R33, R37). -/
theorem decodeOffset_reserved {w off : Nat} (hlo : 0x014 ≤ off) (hhi : off < 0x100) :
    decodeOffset w off = .unused := by
  unfold decodeOffset
  rw [if_neg (by omega), if_neg (by omega), if_neg (by omega), if_neg (by omega),
    if_neg (by omega), if_neg (by omega)]

/-- An offset above the block names nothing (rule R37, log entry 9). -/
theorem decodeOffset_above {w off : Nat} (h : 0x100 + 24 * w ≤ off) :
    decodeOffset w off = .unused := by
  unfold decodeOffset
  rw [if_neg (by omega), if_neg (by omega), if_neg (by omega), if_neg (by omega),
    if_neg (by omega), if_neg (by omega)]

/-- A bank word stands at a multiple of 4 (rule R34). -/
theorem bankOffset_mod_four (w : Nat) (q : BankId) (i : Nat) : bankOffset w q i % 4 = 0 := by
  rw [bankOffset]
  omega

/-! ### Reads -/

/-- A host read of one word at an aligned offset returns the register that the offset names
(rule R55). -/
theorem step_read_base_add {s : State} {off : Nat} {rest : List Turn}
    (h : s.agenda = .host (.read (s.cfg.base + off) 4) :: rest) (hal : off % 4 = 0) :
    step s = .next { s with
      agenda := rest, readLog := s.readReg (decodeOffset s.cfg.words off) :: s.readLog } := by
  have hexec : step s = execRead (s.cfg.base + off) 4 { s with agenda := rest } := by
    simp only [step, h, execHost, popTurn_of_cons h]
  rw [hexec]
  refine execRead_next_iff.mpr ⟨accessWf_base_add s.cfg hal, ?_⟩
  rw [Nat.add_sub_cancel_left]
  rfl

/-- Settles O30: the offset names the register, and each register word is the number its fields
make. -/
theorem hostReadReturnsTheRegister : Obligations.HostReadReturnsTheRegister := by
  intro s off rest hal h
  refine ⟨_, step_read_base_add h hal, ?cmd, ?status, ?ctrl, ?cap, ?signs, ?bank, ?reserved, ?above⟩
  case cmd =>
    rintro rfl
    rfl
  case status =>
    rintro rfl
    exact s.statusWord_toNat
  case ctrl =>
    rintro rfl
    exact s.ctrlWord_toNat
  case cap =>
    rintro rfl
    exact s.capWord_toNat
  case signs =>
    rintro rfl
    exact s.signsWord_toNat
  case bank =>
    rintro q i hi rfl
    have hword : decodeOffset s.cfg.words (0x100 + 4 * (bankNumber q * s.cfg.words + i)) =
      .bankWord q i := decodeOffset_bankOffset q hi
    rw [hword]
    exact getD_toNat (s.bank q) i
  case reserved =>
    intro hlo hhi
    rw [decodeOffset_reserved hlo hhi]
    rfl
  case above =>
    intro habove
    rw [decodeOffset_above habove]
    rfl

/-! ### Writes -/

/-- A write to an operand word of an idle block sets that word (rule R56). -/
theorem writeReg_operand {s : State} {q : BankId} (hq : isOperandBank q = true)
    (hb : s.busy = false) (i : Nat) (v : Word) :
    s.writeReg (.bankWord q i) v = s.setBank q ((s.bank q).set i v) := by
  simp [State.writeReg, hq, hb]

/-- A write to a bank word is dropped while busy (rule R56). -/
theorem writeReg_bankWord_of_busy {s : State} (hb : s.busy = true) (q : BankId) (i : Nat)
    (v : Word) : s.writeReg (.bankWord q i) v = s := by
  simp [State.writeReg, hb]

/-- A write to a word of RES, X or Y is ignored (rule R56). -/
theorem writeReg_result {q : BankId} (hq : isOperandBank q = false) (s : State) (i : Nat)
    (v : Word) : s.writeReg (.bankWord q i) v = s := by
  simp [State.writeReg, hq]

/-- A write to CMD is dropped while busy (rule R57). -/
theorem writeReg_cmd_of_busy {s : State} (hb : s.busy = true) (v : Word) :
    s.writeReg .cmd v = s :=
  if_pos hb

/-- A write to CMD of an idle block is a START (rule R57). -/
theorem writeReg_cmd_of_idle {s : State} (hb : s.busy = false) (v : Word) :
    s.writeReg .cmd v = s.start v :=
  if_neg (Bool.eq_false_iff.mp hb)

/-- A, B and N are the operand banks (rule R14). -/
theorem isOperandBank_of_eq {q : BankId} (h : q = .a ∨ q = .b ∨ q = .n) :
    isOperandBank q = true := by
  rcases h with rfl | rfl | rfl <;> rfl

/-- Every bank has W words (rule R14). -/
theorem State.BanksFit.bank_length {s : State} (h : s.BanksFit) (q : BankId) :
    (s.bank q).length = s.cfg.words := by
  obtain ⟨ha, hb, hn, hres, hx, hy⟩ := h
  cases q <;> assumption

/-- Word i' of bank q' after word i of bank q was set. -/
theorem getElem?_bank_setWord {s : State} {q : BankId} {i : Nat} (hi : i < (s.bank q).length)
    (v : Word) (q' : BankId) (i' : Nat) :
    ((s.setBank q ((s.bank q).set i v)).bank q')[i']? =
      if q' = q ∧ i' = i then some v else (s.bank q')[i']? := by
  rw [State.bank_setBank]
  by_cases hq : q' = q
  · subst hq
    simp [List.getElem?_set, hi, eq_comm]
  · simp [hq]

/-- A host write to an operand word of an idle block (rule R56). -/
theorem step_write_operandWord {s : State} {q : BankId} {i : Nat} {v : Word} {rest : List Turn}
    (hq : isOperandBank q = true) (hb : s.busy = false) (hi : i < s.cfg.words)
    (h : s.agenda = wrw s.cfg (bankOffset s.cfg.words q i) v :: rest) :
    step s = .next (State.setBank { s with agenda := rest } q ((s.bank q).set i v)) := by
  rw [step_write_base_add h (bankOffset_mod_four _ q i), decodeOffset_bankOffset q hi,
    writeReg_operand (s := { s with agenda := rest }) hq hb]
  rfl

/-- Settles O31: the offset names the word, and the write replaces it in its bank's list. -/
theorem hostWriteSetsOneOperandWord : Obligations.HostWriteSetsOneOperandWord := by
  rintro s q i v rest ⟨-, hfit, -⟩ hb hi hq h
  have hop := isOperandBank_of_eq hq
  have hlen : i < (s.bank q).length := hi.trans_eq (hfit.bank_length q).symm
  exact ⟨_, step_write_operandWord hop hb hi h, setBank_frame hop _ _,
    getElem?_bank_setWord (s := { s with agenda := rest }) hlen v⟩

/-- Settles O32: both kinds of offset name a register whose write is dropped while busy. -/
theorem writesWhileBusyAreDropped : Obligations.WritesWhileBusyAreDropped := by
  rintro s off v rest hb (rfl | ⟨hlo, hhi, hal⟩) h
  · rw [step_write_base_add h rfl]
    exact congrArg _ (writeReg_cmd_of_busy (s := { s with agenda := rest }) hb v)
  · obtain ⟨q, i, hword, -⟩ := exists_bankWord_of_bankArea hlo hhi
    rw [step_write_base_add h hal, hword,
      writeReg_bankWord_of_busy (s := { s with agenda := rest }) hb]

/-- From 0x100 + 12*W on, an offset names a word of a result bank or nothing (rules R34, R37). -/
theorem decodeOffset_above_operands {w off : Nat} (h : 0x100 + 12 * w ≤ off) :
    (∃ q i, decodeOffset w off = .bankWord q i ∧ isOperandBank q = false) ∨
      decodeOffset w off = .unused := by
  rcases Nat.lt_or_ge off (0x100 + 24 * w) with hhi | hhi
  · obtain ⟨q, i, hword, -⟩ := exists_bankWord_of_bankArea (by omega) hhi
    refine .inl ⟨q, i, hword, Bool.eq_false_iff.mpr fun hq => ?_⟩
    have := operandArea_of_decodeOffset_eq_bankWord hword hq
    omega
  · exact .inr (decodeOffset_above hhi)

/-- Settles O33: every such offset names a register whose write does nothing. -/
theorem writesToReadOnlyOffsetsAreIgnored : Obligations.WritesToReadOnlyOffsetsAreIgnored := by
  intro s off v rest hal hoff h
  rw [step_write_base_add h hal]
  rcases hoff with rfl | rfl | ⟨hlo, hhi⟩ | habove
  · rfl
  · rfl
  · rw [decodeOffset_reserved hlo hhi]
    rfl
  · rcases decodeOffset_above_operands habove with ⟨q, i, hword, hq⟩ | hnone
    · rw [hword, writeReg_result hq]
    · rw [hnone]
      rfl

/-- Settles O34: offset 0 names CMD, whose write is a START or dropped. -/
theorem startAcceptsTheCommandWord : Obligations.StartAcceptsTheCommandWord := by
  intro s v rest h
  have hstep : step s = .next (State.writeReg { s with agenda := rest } .cmd v) :=
    step_write_base_add (off := 0x000) h rfl
  constructor
  · intro hb
    rw [writeReg_cmd_of_idle (s := { s with agenda := rest }) hb] at hstep
    exact ⟨_, hstep, State.start_irq _ _, rfl⟩
  · intro hb
    rwa [writeReg_cmd_of_busy (s := { s with agenda := rest }) hb] at hstep

/-- Settles O36: offset 8 names CTRL, whose write does not look at BUSY. -/
theorem ctrlWriteSetsOnlyInterruptEnable : Obligations.CtrlWriteSetsOnlyInterruptEnable :=
  fun _ _ _ h => step_write_base_add h rfl

/-! ### Accesses without a meaning -/

/-- An access below BASE has no register (rule R32, log entry 7). -/
theorem locate_below {c : Config} {addr : Nat} (size : Nat) (h : addr < c.base) :
    locate c addr size = .fault (.outsideBlock addr) :=
  if_pos h

/-- An access of another width is refused (rule R35, log entry 8). -/
theorem locate_width (c : Config) (off : Nat) {size : Nat} (h : size ≠ 4) :
    locate c (c.base + off) size = .refused (.accessWidth size) := by
  rw [locate, if_neg (by omega), if_pos h]

/-- An access of another alignment is refused (rule R35, log entry 8). -/
theorem locate_alignment (c : Config) {off : Nat} (h : off % 4 ≠ 0) :
    locate c (c.base + off) 4 = .refused (.accessAlignment off) := by
  rw [locate, if_neg (by omega), if_neg (by decide), Nat.add_sub_cancel_left, if_pos h]

/-- A host access that is refused stops the machine, read or write (rule R35). -/
theorem step_of_locate_refused {s : State} {addr size : Nat} {v : Word} {rest : List Turn}
    {e : Refusal} (h : s.agenda = .host (.read addr size) :: rest ∨
      s.agenda = .host (.write addr size v) :: rest)
    (he : locate s.cfg addr size = .refused e) : step s = .refused e := by
  rcases h with h | h
  · simp only [step, h, execHost, execRead, State.popTurn_cfg, he]
  · simp only [step, h, execHost, execWrite, State.popTurn_cfg, he]

/-- A host access that faults stops the machine, read or write (rule R32). -/
theorem step_of_locate_fault {s : State} {addr size : Nat} {v : Word} {rest : List Turn}
    {e : Fault} (h : s.agenda = .host (.read addr size) :: rest ∨
      s.agenda = .host (.write addr size v) :: rest)
    (he : locate s.cfg addr size = .fault e) : step s = .fault e := by
  rcases h with h | h
  · simp only [step, h, execHost, execRead, State.popTurn_cfg, he]
  · simp only [step, h, execHost, execWrite, State.popTurn_cfg, he]

/-- Settles O37: the width is checked first, then the alignment. -/
theorem undefinedAccessesAreRefused : Obligations.UndefinedAccessesAreRefused := by
  intro s off size v rest h
  constructor
  · exact fun hsize => step_of_locate_refused h (locate_width s.cfg off hsize)
  · rintro rfl hoff
    exact step_of_locate_refused h (locate_alignment s.cfg hoff)

/-- Settles O38: the check of the address is the first of the three. -/
theorem accessBelowBaseFaults : Obligations.AccessBelowBaseFaults :=
  fun s _ size _ _ hlt h => step_of_locate_fault h (locate_below (c := s.cfg) size hlt)

end Sys2Proof.Machine
end

section
/-! Proofs about sequences of host accesses (rules R43, R51, R61, R62). -/

namespace Sys2Proof.Machine

/-! ### Writing a whole bank -/

/-- `s` with other turns to come. -/
def State.withAgenda (s : State) (ts : List Turn) : State := { s with agenda := ts }

/-- A host write to word `i` of an operand bank whose words are `old` (rule R56). -/
theorem step_setBank_write {s : State} {q : BankId} {i : Nat} {v : Word} {rest : List Turn}
    (hq : isOperandBank q = true) (hb : s.busy = false) (hi : i < s.cfg.words) (old : Bank) :
    step ((s.withAgenda (wrw s.cfg (bankOffset s.cfg.words q i) v :: rest)).setBank q old) =
      .next ((s.withAgenda rest).setBank q (old.set i v)) := by
  cases q with
  | a | b | n => exact step_write_operandWord hq hb hi rfl
  | res | x | y => cases hq

/-- The writes of the words `ws` to an operand bank of an idle block, from the word after `front` on,
replace the words `old` that stood there (rules R51, R56). -/
theorem runSteps_wrWords {s : State} {q : BankId} (hq : isOperandBank q = true)
    (hb : s.busy = false) (rest : List Turn) (ws front : Bank) {old : Bank}
    (hold : old.length = ws.length) (hfit : front.length + ws.length ≤ s.cfg.words) :
    runSteps ws.length
        ((s.withAgenda (wrWords s.cfg q front.length ws ++ rest)).setBank q (front ++ old)) =
      .next ((s.withAgenda rest).setBank q (front ++ ws)) := by
  induction ws generalizing front old with
  | nil =>
    obtain rfl := List.eq_nil_of_length_eq_zero hold
    rfl
  | cons w ws ih =>
    obtain ⟨x, old, rfl⟩ := List.exists_cons_of_length_eq_add_one hold
    rw [List.length_cons] at hfit
    have hset : (front ++ x :: old).set front.length w = (front ++ [w]) ++ old := by simp
    have hstep := step_setBank_write (v := w) (rest := wrWords s.cfg q (front.length + 1) ws ++ rest)
      hq hb (show front.length < s.cfg.words by omega) (front ++ x :: old)
    have hrun := ih (front ++ [w]) (Nat.succ.inj hold) (by
      rw [List.length_append, List.length_singleton]
      omega)
    rw [hset] at hstep
    rw [List.length_append, List.append_assoc] at hrun
    rw [List.length_cons]
    exact (runSteps_succ hstep).trans (by simpa using hrun)

/-- Settles O39: the W writes replace all the words of the bank by those of the integer. -/
theorem wholeBankWriteStoresTheInteger : Obligations.WholeBankWriteStoresTheInteger := by
  rintro s q v rest ⟨-, hfit, -⟩ hb hq hv h
  have hop := isOperandBank_of_eq hq
  have hlen : (bankOfNat s.cfg.words v).length = s.cfg.words := bankOfNat_length _ _
  have hstart : (s.withAgenda (wr s.cfg q v ++ rest)).setBank q (s.bank q) = s := by
    rw [← h]
    exact s.setBank_self q
  have hrun :=
    calc runSteps s.cfg.words s
        = runSteps (bankOfNat s.cfg.words v).length
            ((s.withAgenda (wr s.cfg q v ++ rest)).setBank q (s.bank q)) := by rw [hlen, hstart]
      _ = .next ((s.withAgenda rest).setBank q (bankOfNat s.cfg.words v)) :=
          runSteps_wrWords hop hb rest (bankOfNat s.cfg.words v) []
            ((hfit.bank_length q).trans hlen.symm) (by simp)
  refine ⟨_, hrun, ?value, fun q' hq' => ?others, setBank_frame hop _ _⟩
  case value =>
    rw [State.bank_setBank, if_pos rfl]
    exact bankVal_bankOfNat hv
  case others =>
    rw [State.bank_setBank, if_neg hq']
    rfl

/-! ### Reading a whole bank -/

/-- `s` with other turns to come and another log of the host. -/
def State.withAgendaLog (s : State) (ts : List Turn) (log : List Word) : State :=
  { s with agenda := ts, readLog := log }

/-- A host read of a bank word logs it (rule R55). -/
theorem step_read_bankWord {s : State} {i : Nat} (hi : i < s.cfg.words) (q : BankId)
    (rest : List Turn) (log : List Word) :
    step (s.withAgendaLog (rdw s.cfg (bankOffset s.cfg.words q i) :: rest) log) =
      .next (s.withAgendaLog rest ((s.bank q).getD i 0 :: log)) := by
  have hword : decodeOffset s.cfg.words (bankOffset s.cfg.words q i) = .bankWord q i :=
    decodeOffset_bankOffset q hi
  rw [step_read_base_add (s := s.withAgendaLog _ log) rfl (bankOffset_mod_four _ q i)]
  simp only [State.withAgendaLog, hword]
  rfl

/-- The reads of the words `back` of a bank, after its words `front`, log them in order
(rules R51, R55). -/
theorem runSteps_rdWords {s : State} {q : BankId} (rest : List Turn) (back : Bank) {front : Bank}
    (log : List Word) (hbank : s.bank q = front ++ back)
    (hfit : front.length + back.length ≤ s.cfg.words) :
    runSteps back.length (s.withAgendaLog ((List.range' front.length back.length).map
        (fun i => rdw s.cfg (bankOffset s.cfg.words q i)) ++ rest) log) =
      .next (s.withAgendaLog rest (back.reverse ++ log)) := by
  induction back generalizing front log with
  | nil => rfl
  | cons w back ih =>
    rw [List.length_cons] at hfit
    rw [List.length_cons, List.range'_succ, List.map_cons, List.cons_append]
    have hword : (s.bank q).getD front.length 0 = w := by simp [hbank]
    have hrun := ih (front := front ++ [w]) (w :: log) (by simp [hbank]) (by
      rw [List.length_append, List.length_singleton]
      omega)
    rw [List.length_append, List.length_singleton] at hrun
    rw [List.reverse_cons, List.append_assoc, List.singleton_append, ← hrun]
    exact runSteps_succ (hword ▸ step_read_bankWord (by omega) q _ log)

/-- Settles O40: the W reads log all the words of the bank. -/
theorem wholeBankReadReturnsTheWords : Obligations.WholeBankReadReturnsTheWords := by
  rintro s q rest ⟨-, hfit, -⟩ h
  have hlen := hfit.bank_length q
  have hrun := runSteps_rdWords (front := []) rest (s.bank q) s.readLog rfl (by simp [hlen])
  have hstart : s.withAgendaLog (rd s.cfg q ++ rest) s.readLog = s := by
    rw [← h]
    rfl
  rw [hlen, List.length_nil, ← List.range_eq_range'] at hrun
  exact (congrArg _ hstart).symm.trans hrun

/-! ### Host accesses while a command is in progress -/

/-- A defined turn of the host has a next state (rule R35). -/
theorem exists_step_of_definedHostTurn {s : State} {u : Turn} {rest : List Turn}
    (h : s.agenda = u :: rest) (hu : isDefinedHostTurn s.cfg u = true) : ∃ t, step s = .next t := by
  match u with
  | .host (.read addr size) =>
    exact ⟨_, by simp only [step, h]; exact execRead_next_iff.mpr ⟨hu, rfl⟩⟩
  | .host (.write addr size v) =>
    exact ⟨_, by simp only [step, h]; exact execWrite_next_iff.mpr ⟨hu, rfl⟩⟩

/-- A defined turn of the host while a command is in progress can change IE, DONE and the host's log
alone (rules R43, R56). -/
theorem step_of_definedHostTurn_of_busy {s : State} {u : Turn} {rest : List Turn}
    (h : s.agenda = u :: rest) (hu : isDefinedHostTurn s.cfg u = true) (hb : s.busy = true) :
    ∃ ie done log,
      step s = .next { s with agenda := rest, ie := ie, done := done, readLog := log } := by
  obtain ⟨t, hstep⟩ := exists_step_of_definedHostTurn h hu
  have hrest : s.agenda.tail = rest := by rw [h, List.tail_cons]
  rw [hstep, ← hrest]
  cases stepEvent_of_step hstep with
  | quiet log => exact ⟨s.ie, s.done, log, rfl⟩
  | ack => exact ⟨s.ie, false, s.readLog, rfl⟩
  | enable v => exact ⟨v[0], s.done, s.readLog, rfl⟩
  | start v _ _ idle => exact absurd hb (Bool.eq_false_iff.mp idle)
  | operandWord _ _ _ _ _ _ _ _ _ idle => exact absurd hb (Bool.eq_false_iff.mp idle)
  | completion turn =>
    have hengine : u = .engine := by simpa [State.EngineTurn, h] using turn
    subst hengine
    cases hu
  | reset turn =>
    have hreset : u = .reset := by simpa [State.ResetTurn, h] using turn
    subst hreset
    cases hu

/-- After any defined turns of the host the same command is in progress on the same operands
(rules R43, R56). -/
theorem runSteps_definedHostTurns_of_busy (ts : List Turn) {s : State} (h : s.agenda = ts)
    (hts : ts.all (isDefinedHostTurn s.cfg) = true) (hb : s.busy = true) :
    ∃ ie done log, ∀ k, runSteps (ts.length + k) s =
      runSteps k { s with agenda := [], ie := ie, done := done, readLog := log } := by
  induction ts generalizing s with
  | nil =>
    refine ⟨s.ie, s.done, s.readLog, fun k => ?_⟩
    rw [List.length_nil, Nat.zero_add, ← h]
  | cons u rest ih =>
    rw [List.all_cons, Bool.and_eq_true] at hts
    obtain ⟨hu, hrest⟩ := hts
    obtain ⟨ie, done, log, hstep⟩ := step_of_definedHostTurn_of_busy h hu hb
    obtain ⟨ie', done', log', hrun⟩ :=
      ih (s := { s with agenda := rest, ie := ie, done := done, readLog := log }) rfl hrest hb
    refine ⟨ie', done', log', fun k => ?_⟩
    rw [List.length_cons, Nat.add_right_comm, runSteps_succ hstep, hrun]

/-- One step more. -/
theorem runSteps_one (s : State) : runSteps 1 s = step s := by
  rw [runSteps]
  cases step s <;> rfl

/-- A completion does not look at the agenda, IE, DONE or the host's log (rule R28). -/
theorem complete_congr_of_ie_done_log (s : State) (o : CmdOutcome) (ts : List Turn) (ie done : Bool)
    (log : List Word) :
    State.complete { s with agenda := ts, ie := ie, done := done, readLog := log } o =
      { s.complete o with agenda := ts, ie := ie, readLog := log } := by
  rcases o with ⟨v, _ | ⟨x, y⟩⟩ | e <;> rfl

/-- Settles O52: after the host's turns the same command is in progress on the same operands, the
engine moves, and the completion looks at nothing that the host could change. -/
theorem acceptedCommandCompletesWhateverTheHostDoes :
    Obligations.AcceptedCommandCompletesWhateverTheHostDoes := by
  intro s i _ hb hd hts
  obtain ⟨ie, done, log, hrun⟩ := runSteps_definedHostTurns_of_busy s.agenda rfl hts hb
  have houtcome : outcomeOf i { s with agenda := [], ie := ie, done := done, readLog := log } =
    outcomeOf i s := outcomeOf_congr rfl rfl (fun _ => rfl) (fun _ => rfl)
  have hlast : runSteps (s.agenda.length + 1) s =
      .next { s.complete (outcomeOf i s) with agenda := [], ie := ie, readLog := log } := by
    rw [hrun, runSteps_one,
      step_of_busy_of_decode (s := { s with agenda := [], ie := ie, done := done, readLog := log })
        (.inl rfl) hb hd,
      popTurn_of_nil rfl, exec_eq, houtcome, complete_congr_of_ie_done_log]
  exact ⟨_, _, hlast, exec_eq i s, rfl⟩

end Sys2Proof.Machine
end

section
/-! Proofs about the laws of the Montgomery form and the reference datapaths (rules R66 to R69, R75,
R76). -/

namespace Sys2Proof.Machine

/-! ### The laws of the Montgomery form -/

/-- The Montgomery form depends on the residue alone. -/
@[simp] theorem montForm_mod (k a n : Nat) : montForm k (a % n) n = montForm k a n :=
  Nat.mod_mul_mod a (2 ^ k) n

/-- Law (a) of rule R66, for every a and b: the Montgomery product of two forms is the form of the
product. -/
theorem montProd_montForm (k a b : Nat) {n : Nat} (hn : n % 2 = 1) :
    montProd k (montForm k a n) (montForm k b n) n = montForm k (a * b) n := by
  refine (eq_montProd hn (montForm_lt _ _ (by omega)) ?_).symm
  simp only [montForm, Nat.mod_mul_mod, Nat.mul_mod_mod]
  congr 1
  ring

/-- Law (b) of rule R66: the Montgomery product of a form with 1 is the integer, reduced. -/
theorem montProd_montForm_one (k a : Nat) {n : Nat} (hn : n % 2 = 1) :
    montProd k (montForm k a n) (1 % n) n = a % n := by
  refine (eq_montProd hn (Nat.mod_lt _ (by omega)) ?_).symm
  rw [Nat.mul_mod_mod, mul_one, Nat.mod_mul_mod, montForm, Nat.mod_mod]

/-- Law (c) of rule R66: the Montgomery product with R * R is the form. -/
theorem montProd_sq (k a : Nat) {n : Nat} (hn : n % 2 = 1) :
    montProd k a (2 ^ k * 2 ^ k % n) n = montForm k a n := by
  refine (eq_montProd hn (montForm_lt _ _ (by omega)) ?_).symm
  rw [montForm, Nat.mod_mul_mod, Nat.mul_mod_mod, mul_assoc]

/-- Law (d) of rule R66: the Montgomery product is commutative. -/
theorem montProd_comm (k a b n : Nat) : montProd k a b n = montProd k b a n := by
  rw [montProd, mul_comm a b, montProd]

/-- Settles O22: laws (a) to (d), each by the property that defines the product, and (e) as (a) for
the factor 1. -/
theorem montgomeryFormLaws : Obligations.MontgomeryFormLaws := by
  refine fun k n a b hn ha hb => ⟨?_, fun h1 => ?_, montProd_sq k a hn, montProd_comm k a b n, ?_⟩
  · rw [montProd_montForm k a b hn, montForm_mod]
  · have h := montProd_montForm_one k a hn
    rwa [Nat.mod_eq_of_lt h1, Nat.mod_eq_of_lt ha] at h
  · rw [montProd_montForm k 1 a hn, one_mul]

/-- Settles O23: A and B are below N, so MONTMUL succeeds, and law (b) says what it writes. -/
theorem montmulByOneLeavesTheMontgomeryDomain :
    Obligations.MontmulByOneLeavesTheMontgomeryDomain := by
  rintro s v ⟨-, hfit, -⟩ hn h1 hv hA hB
  have hvalue : montProd s.cfg.bits s.opA s.opB s.opN = v := by
    have h := montProd_montForm_one s.cfg.bits v hn
    rwa [Nat.mod_eq_of_lt h1, Nat.mod_eq_of_lt hv, montForm, ← hA, ← hB] at h
  have hAlt : s.opA < s.opN := hA ▸ Nat.mod_lt _ (by omega)
  have hout := cmdMontmul_of_lt s.cfg.bits hn hAlt (hB ▸ h1)
  rw [hvalue] at hout
  obtain ⟨t, hexec, hframe, -, hres⟩ :=
    exec_of_outcome_res (i := .montmul) hout (hv.trans hfit.opN_lt)
  exact ⟨t, hexec, congrArg State.err hframe, hres⟩

/-! ### The radix-2 loop (rules R67, R68) -/

/-- Halving loses nothing in a step: the odd n is added when the sum is odd. -/
theorem two_mul_montStep (a b i acc : Nat) {n : Nat} (hn : n % 2 = 1) :
    2 * montStep a b n i acc = acc + a / 2 ^ i % 2 * b ∨
      2 * montStep a b n i acc = acc + a / 2 ^ i % 2 * b + n := by
  simp only [montStep]
  split_ifs <;> omega

/-- A bit times b is at most b. -/
theorem bit_mul_le (a i b : Nat) : a / 2 ^ i % 2 * b ≤ b := by
  rcases Nat.mod_two_eq_zero_or_one (a / 2 ^ i) with h | h <;> simp [h]

/-- The accumulator stays below 2n (rule R68). -/
theorem montAcc_lt (a : Nat) {b n : Nat} (hn : n % 2 = 1) (hb : b < n) (i : Nat) :
    montAcc a b n i < 2 * n := by
  induction i with
  | zero =>
    rw [montAcc]
    omega
  | succ i ih =>
    have hbit := bit_mul_le a i b
    have hstep := two_mul_montStep a b i (montAcc a b n i) hn
    rw [montAcc]
    omega

/-- Twice the accumulator after a step is the sum that the step halves, modulo n (rule R67). -/
theorem montStep_mul_two_mod (a b i acc : Nat) {n : Nat} (hn : n % 2 = 1) :
    montStep a b n i acc * 2 % n = (acc + a / 2 ^ i % 2 * b) % n := by
  rw [mul_comm]
  rcases two_mul_montStep a b i acc hn with h | h
  · rw [h]
  · rw [h, Nat.add_mod_right]

/-- The low i + 1 bits are the low i bits and bit i. -/
theorem mod_two_pow_succ (a i : Nat) : a % 2 ^ (i + 1) = a % 2 ^ i + 2 ^ i * (a / 2 ^ i % 2) := by
  rw [pow_succ, Nat.mod_mul]

/-- After i steps the accumulator is the product of the low i bits of a with b, divided by 2^i modulo n
(rule R67). -/
theorem montAcc_mul_two_pow_mod (a b : Nat) {n : Nat} (hn : n % 2 = 1) (i : Nat) :
    montAcc a b n i * 2 ^ i % n = a % 2 ^ i * b % n := by
  induction i with
  | zero => simp [montAcc, Nat.mod_one]
  | succ i ih =>
    calc montAcc a b n (i + 1) * 2 ^ (i + 1) % n
        = montStep a b n i (montAcc a b n i) * 2 * 2 ^ i % n := by rw [montAcc]; ring_nf
      _ = (montAcc a b n i + a / 2 ^ i % 2 * b) * 2 ^ i % n := by
          rw [← Nat.mod_mul_mod, montStep_mul_two_mod _ _ _ _ hn, Nat.mod_mul_mod]
      _ = (montAcc a b n i * 2 ^ i + 2 ^ i * (a / 2 ^ i % 2) * b) % n := by ring_nf
      _ = (a % 2 ^ i * b + 2 ^ i * (a / 2 ^ i % 2) * b) % n := by
          rw [Nat.add_mod, ih, ← Nat.add_mod]
      _ = a % 2 ^ (i + 1) * b % n := by rw [mod_two_pow_succ]; ring_nf

/-- The conditional subtraction gives the residue of the accumulator. -/
theorem montRadix2_eq_mod (k a : Nat) {b n : Nat} (hn : n % 2 = 1) (hb : b < n) :
    montRadix2 k a b n = montAcc a b n k % n := by
  have hlt := montAcc_lt a hn hb k
  rw [montRadix2]
  split
  case isTrue h => rw [Nat.mod_eq_sub_mod h, Nat.mod_eq_of_lt (by omega)]
  case isFalse h => rw [Nat.mod_eq_of_lt (by omega)]

/-- Settles O24: after k steps the low k bits of a are all of a, so the residue of the accumulator has
the property that defines the Montgomery product. -/
theorem radixTwoLoopComputesTheMontgomeryProduct :
    Obligations.RadixTwoLoopComputesTheMontgomeryProduct := by
  intro k n a b hn hk ha hb
  refine ⟨?product, fun i _ => ⟨montAcc_lt a hn hb i, ?_, montAcc_mul_two_pow_mod a b hn i⟩⟩
  case product =>
    rw [montRadix2_eq_mod k a hn hb]
    refine eq_montProd hn (Nat.mod_lt _ (by omega)) ?_
    rw [Nat.mod_mul_mod, montAcc_mul_two_pow_mod a b hn, Nat.mod_eq_of_lt (ha.trans hk)]
  · have := montAcc_lt a hn hb i
    omega

/-! ### The square-and-multiply ladder (rule R75) -/

/-- Doubling m times gives the power of 2 (rule R75). -/
theorem modDouble_eq (n m : Nat) : modDouble n m = 2 ^ m % n := by
  induction m with
  | zero => rfl
  | succ m ih => rw [modDouble, ih, Nat.mul_mod_mod, pow_succ']

/-- Every exponent has at most bitlen bits (rule R8). -/
theorem lt_two_pow_bitLen (e : Nat) : e < 2 ^ bitLen e := by
  rw [bitLen]
  split
  case isTrue h => simp [h]
  case isFalse h => exact Nat.lt_log2_self

/-- The scan over the low i bits, from the form of the power by the bits above them, gives the form of
the whole power (rule R75). -/
theorem ladderScan_montForm (k e a : Nat) {n : Nat} (hn : n % 2 = 1) (i : Nat) :
    ladderScan k n e (montForm k a n) i (montForm k (a ^ (e / 2 ^ i)) n) = montForm k (a ^ e) n := by
  induction i with
  | zero => rw [ladderScan, pow_zero, Nat.div_one]
  | succ i ih =>
    have hbits : e / 2 ^ i = 2 * (e / 2 ^ (i + 1)) + e / 2 ^ i % 2 := by
      rw [pow_succ, ← Nat.div_div_eq_div_mul]
      omega
    have hsq : a ^ (e / 2 ^ (i + 1)) * a ^ (e / 2 ^ (i + 1)) = a ^ (2 * (e / 2 ^ (i + 1))) := by
      rw [← pow_add, two_mul]
    rw [ladderScan, montProd_montForm k _ _ hn, hsq]
    split
    case isTrue h =>
      rw [montProd_montForm k _ a hn, ← pow_succ, ← ih]
      rw [h] at hbits
      rw [← hbits]
    case isFalse h =>
      rw [← ih]
      rw [show e / 2 ^ i % 2 = 0 by omega, add_zero] at hbits
      rw [← hbits]

/-- Settles O25: the ladder enters the Montgomery domain by law (c), scans from the form of a ^ 0, and
leaves it by law (b). -/
theorem ladderComputesThePower : Obligations.LadderComputesThePower := by
  intro k n a e hn
  have hrr : modDouble n (2 * k) = 2 ^ k * 2 ^ k % n := by rw [modDouble_eq, two_mul, pow_add]
  have hstart : montForm k 1 n = montForm k (a ^ (e / 2 ^ bitLen e)) n := by
    rw [Nat.div_eq_of_lt (lt_two_pow_bitLen e), pow_zero]
  simp only [modexpLadder, hrr, montProd_sq k _ hn, montForm_mod]
  rw [hstart, ladderScan_montForm k e a hn, montProd_montForm_one k _ hn]

/-! ### The laws of the power (rule R76) -/

/-- Settles O26: each law is one of the exact power, modulo n. -/
theorem modexpLaws : Obligations.ModexpLaws := by
  intro k n a e f hk hn he hf
  refine ⟨?_, fun h1 => ?_, ?_, ?_⟩
  · rw [powMod_eq a n (Nat.one_lt_two_pow hk.ne'), pow_one]
  · have htwo : 2 < 2 ^ k := (Nat.pow_lt_pow_right (by decide) h1 : 2 ^ 1 < 2 ^ k)
    rw [powMod_eq a n htwo, pow_two]
  · rw [powMod_eq _ n hf, powMod_eq a n he, ← Nat.pow_mod, ← pow_mul]
  · rw [powMod_eq a n he, powMod_eq (a % n) n he, ← Nat.pow_mod]

end Sys2Proof.Machine
end

section
/-! Proofs about the Euclid loop and its two commands (rules R77 to R81, R84), and the round trip of
RSA (rule R76). -/

namespace Sys2Proof.Machine

/-! ### The Euclid loop, step by step -/

/-- After the end of the loop its triples stay (rule R77). -/
theorem xgcdIter_succ_of_end {a b m : Nat} (h : (xgcdIter a b m).2.c3 = 0) :
    xgcdIter a b (m + 1) = xgcdIter a b m :=
  if_pos h

/-- Before the end of the loop it takes a step (rule R77). -/
theorem xgcdIter_succ_of_step {a b m : Nat} (h : (xgcdIter a b m).2.c3 ≠ 0) :
    xgcdIter a b (m + 1) =
      ((xgcdIter a b m).2, tripleStep (xgcdIter a b m).1 (xgcdIter a b m).2) :=
  if_neg h

/-- What holds of the two triples (u, v) before every step of the loop (rules R78, R80). -/
structure EuclidInv (a b : Nat) (p : Triple × Triple) : Prop where
  lin_u : p.1.Lin a b
  lin_v : p.2.Lin a b
  gcd_eq : Nat.gcd p.1.c3 p.2.c3 = Nat.gcd a b
  bound_x : CoeffBound b p.1.c1 p.2.c1 p.1.c3 p.2.c3
  bound_y : CoeffBound a p.1.c2 p.2.c2 p.1.c3 p.2.c3

/-- The triples from which the loop starts have the invariant (rule R77). -/
theorem EuclidInv.initial (a b : Nat) : EuclidInv a b (⟨1, 0, a⟩, ⟨0, 1, b⟩) where
  lin_u := by simp [Triple.Lin]
  lin_v := by simp [Triple.Lin]
  gcd_eq := rfl
  bound_x := by simp [CoeffBound]
  bound_y := by simp [CoeffBound]

/-- A step of the loop keeps the invariant (rules R78, R80). -/
theorem EuclidInv.step {a b : Nat} {u v : Triple} (hv : v.c3 ≠ 0) (h : EuclidInv a b (u, v)) :
    EuclidInv a b (v, tripleStep u v) where
  lin_u := h.lin_v
  lin_v := tripleStep_lin h.lin_u h.lin_v
  gcd_eq := by
    rw [← h.gcd_eq, tripleStep_c3, Nat.gcd_comm v.c3, ← Nat.gcd_rec, Nat.gcd_comm]
  bound_x := tripleStep_c3 u v ▸ h.bound_x.step hv
  bound_y := tripleStep_c3 u v ▸ h.bound_y.step hv

/-- The invariant holds after any number of steps. -/
theorem euclidInv_xgcdIter (a b m : Nat) : EuclidInv a b (xgcdIter a b m) := by
  induction m with
  | zero => exact .initial a b
  | succ m ih =>
    by_cases hv : (xgcdIter a b m).2.c3 = 0
    · rwa [xgcdIter_succ_of_end hv]
    · rw [xgcdIter_succ_of_step hv]
      exact ih.step hv

/-- Every step that is not after the end makes v3 smaller (rule R79). -/
theorem xgcdIter_c3_le (a b m : Nat) :
    (xgcdIter a b m).2.c3 = 0 ∨ (xgcdIter a b m).2.c3 + m ≤ b := by
  induction m with
  | zero => exact .inr (Nat.le_refl b)
  | succ m ih =>
    by_cases hv : (xgcdIter a b m).2.c3 = 0
    · rw [xgcdIter_succ_of_end hv]
      exact .inl hv
    · rw [xgcdIter_succ_of_step hv, tripleStep_c3]
      have := Nat.mod_lt (xgcdIter a b m).1.c3 (Nat.pos_of_ne_zero hv)
      omega

/-- From every stage of the loop it goes on to the result of Xgcd. -/
theorem xgcdLoop_xgcdIter (a b m : Nat) :
    xgcdLoop ((xgcdIter a b m).2.c3 + 1) (xgcdIter a b m).1 (xgcdIter a b m).2 = xgcd a b := by
  induction m with
  | zero => rfl
  | succ m ih =>
    by_cases hv : (xgcdIter a b m).2.c3 = 0
    · rwa [xgcdIter_succ_of_end hv]
    · have hlt := Nat.mod_lt (xgcdIter a b m).1.c3 (Nat.pos_of_ne_zero hv)
      rw [← tripleStep_c3] at hlt
      rw [xgcdLoop, if_neg hv] at ih
      rw [xgcdIter_succ_of_step hv, ← ih]
      exact xgcdLoop_eq_of_lt_fuel (Nat.lt_succ_self _) hlt

/-- At the end of the loop its u triple is the result (rule R77). -/
theorem xgcd_eq_of_end {a b m : Nat} (h : (xgcdIter a b m).2.c3 = 0) :
    xgcd a b = (xgcdIter a b m).1 := by
  rw [← xgcdLoop_xgcdIter a b m, xgcdLoop, if_pos h]

/-- Settles O16: the invariant of the loop, and its end after at most b steps. -/
theorem euclidLoopInvariantsAndEnd : Obligations.EuclidLoopInvariantsAndEnd := by
  intro a b m
  obtain ⟨hu, hv, hgcd, ⟨-, -, hux, hvx⟩, ⟨-, -, huy, hvy⟩⟩ := euclidInv_xgcdIter a b m
  refine ⟨⟨hu, hv⟩, tripleStep_c3 _ _, hgcd, ⟨hux, hvx⟩, ⟨huy, hvy⟩, fun hm => ?_⟩
  have hend : (xgcdIter a b m).2.c3 = 0 := by
    have := xgcdIter_c3_le a b m
    omega
  exact ⟨hend, xgcd_eq_of_end hend⟩

/-! ### XGCD and MODINV -/

/-- Settles O14: XGCD stores the triple of Xgcd exactly, and that triple is the gcd with Bézout
coefficients. -/
theorem xgcdGivesTheGcdAndBezoutCoefficients :
    Obligations.XgcdGivesTheGcdAndBezoutCoefficients := by
  intro s hinv
  obtain ⟨-, hstored, -⟩ := xgcdStoresThePairOfTheAlgorithm
  obtain ⟨t, hexec, hframe, hres, hx, hy, hg, hxVal, hyVal, -⟩ := hstored s hinv
  refine ⟨t, hexec, hframe, hres, hx, hy, hg.trans (xgcd_c3 _ _), ?_⟩
  rw [hxVal, hyVal]
  exact xgcd_bezout s.opA s.opB

/-- What a successful MODINV says of its operands, and what it wrote (rule R82). -/
theorem modinv_success {s t : State} (hfit : s.BanksFit) (hexec : exec .modinv s = .next t)
    (herr : t.err = .noError) :
    s.opN ≠ 0 ∧ Nat.gcd s.opA s.opN = 1 ∧
      t.resVal = ((xgcd s.opA s.opN).c1 % (s.opN : Int)).toNat := by
  have hcode := (err_eq_code_of_exec hexec).symm.trans herr
  rw [outcomeOf, code_cmdModinv] at hcode
  split_ifs at hcode with hn hag
  obtain ⟨ha, hg⟩ := not_or.mp hag
  obtain ⟨t', hexec', -, -, hval⟩ := exec_of_outcome_res (i := .modinv)
    (cmdModinv_of_coprime hn ha (not_not.mp hg)) ((toNat_xgcd_c1_mod_lt s.opA hn).trans hfit.opN_lt)
  rw [hexec] at hexec'
  cases hexec'
  exact ⟨hn, not_not.mp hg, hval⟩

/-- Settles O17: both commands run Xgcd on the same pair, and MODINV takes its first coefficient
modulo N. -/
theorem modinvAgreesWithXgcd : Obligations.ModinvAgreesWithXgcd := by
  rintro s s' t ⟨-, hfit, -⟩ hinv' hA hB hexec herr
  obtain ⟨hn, hg, hval⟩ := modinv_success hfit hexec herr
  obtain ⟨-, hstored, -⟩ := xgcdStoresThePairOfTheAlgorithm
  obtain ⟨t', hexec', -, -, -, -, hres, hxVal, -⟩ := hstored s' hinv'
  rw [hA, hB] at hres hxVal
  refine ⟨t', hexec', ?_, ?_⟩
  · rw [hres, xgcd_c3, hg]
  · rw [hxVal, hval, natCast_toNat_xgcd_c1_mod s.opA hn]

/-! ### RSA -/

/-- Fermat's little theorem for every base, also one that p divides. -/
theorem pow_modEq_self_of_prime {p : Nat} (hp : p.Prime) (m j : Nat) :
    m ^ ((p - 1) * j + 1) ≡ m [MOD p] := by
  by_cases hdvd : p ∣ m
  · have hzero : m ≡ 0 [MOD p] := (Nat.modEq_zero_iff_dvd).mpr hdvd
    calc m ^ ((p - 1) * j + 1) ≡ 0 ^ ((p - 1) * j + 1) [MOD p] := hzero.pow _
      _ = 0 := zero_pow (Nat.succ_ne_zero _)
      _ ≡ m [MOD p] := hzero.symm
  · have hcop : Nat.Coprime m p := ((hp.coprime_iff_not_dvd).mpr hdvd).symm
    have hfermat : m ^ (p - 1) ≡ 1 [MOD p] := Nat.totient_prime hp ▸ Nat.ModEq.pow_totient hcop
    calc m ^ ((p - 1) * j + 1) = (m ^ (p - 1)) ^ j * m := by rw [pow_succ, pow_mul]
      _ ≡ 1 ^ j * m [MOD p] := (hfermat.pow j).mul_right m
      _ = m := by rw [one_pow, one_mul]

/-- The power with an exponent that is 1 modulo (p - 1) * (q - 1) is the base, modulo p * q
(rule R76). -/
theorem rsa_pow_modEq {p q : Nat} (hp : p.Prime) (hq : q.Prime) (hpq : p ≠ q) (m j : Nat) :
    m ^ ((p - 1) * (q - 1) * j + 1) ≡ m [MOD p * q] := by
  refine (Nat.modEq_and_modEq_iff_modEq_mul ((Nat.coprime_primes hp hq).mpr hpq)).mp ⟨?_, ?_⟩
  · rw [mul_assoc]
    exact pow_modEq_self_of_prime hp m _
  · rw [mul_comm (p - 1), mul_assoc]
    exact pow_modEq_self_of_prime hq m _

/-- Decryption gives the message back when the two exponents multiply to 1 modulo (p - 1) * (q - 1)
(rule R76). -/
theorem rsa_decrypt_encrypt {p q m e d : Nat} (hp : p.Prime) (hq : q.Prime) (hpq : p ≠ q)
    (hm : m < p * q) (hed : e * d % ((p - 1) * (q - 1)) = 1) :
    (m ^ e % (p * q)) ^ d % (p * q) = m := by
  have hsplit : e * d = (p - 1) * (q - 1) * (e * d / ((p - 1) * (q - 1))) + 1 := by
    have hdiv := Nat.div_add_mod (e * d) ((p - 1) * (q - 1))
    rw [hed] at hdiv
    exact hdiv.symm
  rw [← Nat.pow_mod, ← pow_mul, hsplit]
  exact Nat.mod_eq_of_modEq (rsa_pow_modEq hp hq hpq m _) hm

/-- For odd primes the modulus of the exponents is above 1. -/
theorem one_lt_mul_pred {p q : Nat} (hp : p.Prime) (hq : q.Prime) (hp2 : p ≠ 2) (hq2 : q ≠ 2) :
    1 < (p - 1) * (q - 1) := by
  have hp' : 2 ≤ p - 1 := by
    have := hp.two_le
    omega
  have hq' : 2 ≤ q - 1 := by
    have := hq.two_le
    omega
  calc 1 < 2 * 2 := by decide
    _ ≤ (p - 1) * (q - 1) := Nat.mul_le_mul hp' hq'

/-- Settles O27: MODINV gives exponents that multiply to 1 modulo (p - 1) * (q - 1), and MODEXP writes
the exact powers modulo p * q, which is odd. -/
theorem rsaRoundTripOnTheBlock : Obligations.RsaRoundTripOnTheBlock := by
  rintro p q s1 t1 s2 t2 s3 hp hq hpq hp2 hq2 ⟨-, hfit1, -⟩ ⟨-, hfit2, -⟩ ⟨-, hfit3, -⟩ hN1 hexec1
    herr1 hN2 hB2 hm hexec2 hN3 hA3 hB3
  have hodd : p * q % 2 = 1 :=
    Nat.odd_iff.mp ((hp.odd_of_ne_two hp2).mul (hq.odd_of_ne_two hq2))
  obtain ⟨hphi, hg, hd⟩ := modinv_success hfit1 hexec1 herr1
  have hed : s1.opA * t1.resVal % ((p - 1) * (q - 1)) = 1 := by
    rw [hd, ← hN1, mul_toNat_xgcd_c1_mod hphi hg, hN1,
      Nat.mod_eq_of_lt (one_lt_mul_pred hp hq hp2 hq2)]
  obtain ⟨t2', hexec2', -, -, hc⟩ := exec_modexp_of_odd hfit2 (hN2 ▸ hodd)
  rw [hexec2] at hexec2'
  cases hexec2'
  obtain ⟨t3, hexec3, hframe, -, hres⟩ := exec_modexp_of_odd hfit3 (hN3 ▸ hodd)
  refine ⟨t3, hexec3, congrArg State.err hframe, ?_⟩
  rw [hres, hA3, hB3, hN3, hc, hB2, hN2]
  exact rsa_decrypt_encrypt hp hq hpq hm hed

end Sys2Proof.Machine
end
